-- ==== Sys2Proof/Word.lean ====
section
/-! DEFINITION. The widths of the block (00_scope.md R6, R8): 64-bit cells, 32-bit low views, bytes of names. -/

namespace Sys2Proof

/-- A cell's stored value, `XLEN` = 64 bits; every pattern is legal (10_state.md R15). -/
abbrev Word := BitVec 64

/-- A value of the low view, `WLEN` = 32 bits. -/
abbrev Half := BitVec 32

/-- One byte of a register name, or of the header (30_encoding.md R33). -/
abbrev Byte := BitVec 8

/-- The number of a cell: `NREG` = 34 cells, numbered 0 to 33 (00_scope.md R6, 10_state.md R12). -/
abbrev CellNum := Fin 34

end Sys2Proof
end

