-- ==== Sys2Proof/Config.lean ====
section
/-! DEFINITION. What construction fixes (00_scope.md R6, R7; 10_state.md R16, R21), and the spec's OPEN parameters as
constants without a body, so that no proof can rest on a value of theirs. -/

namespace Sys2Proof

/-- `NUMW`: the width of the number operand of a request (00_scope.md R6). -/
def Config.numw : Nat := 32

/-- `NGPR`: the general-purpose cells are 0 to 30 (00_scope.md R6). -/
def Config.ngpr : Nat := 31

/-- `ZR_NUM` (00_scope.md R6). -/
def Config.zrNum : CellNum := 31

/-- `SP_NUM` (00_scope.md R6). -/
def Config.spNum : CellNum := 32

/-- `PC_NUM` (00_scope.md R6). -/
def Config.pcNum : CellNum := 33

/-- `rv[n]`, the reset value of cell `n`: a constant, 0 for every cell (10_state.md R16). -/
def Config.resetValue (_n : CellNum) : Word := 0

/-- The values `HOST_BYTE_ORDER` can take in the model. DESIGN CHOICE, log entry 9: the spec leaves the order OPEN and
lists none (92_eei_decisions.md D18); that it is one of these two is the model's own limit. Nothing reads it. -/
inductive ByteOrder
  | little
  | big
  deriving DecidableEq, Repr, Inhabited

/-- `CORE_NAME`: OPEN (10_state.md R21, 92_eei_decisions.md D24); log entry 8. -/
opaque Config.coreName : List Byte

/-- `CORE_NUMBER`: OPEN (10_state.md R21, 92_eei_decisions.md D24); log entry 8. -/
opaque Config.coreNumber : Nat

/-- `RENDER_FORMAT`, the header: the characters that name the owning core (60_exceptions.md R77); OPEN, log entry 9. -/
opaque Config.renderHeader (coreName : List Byte) (coreNumber : Nat) : List Byte

/-- `RENDER_FORMAT`, one line: the characters of a number, a name and 16 hexadecimal digits (60_exceptions.md R77);
OPEN, log entry 9. -/
opaque Config.renderLine (number : Nat) (name : List Byte) (digits : List (BitVec 4)) : List Byte

/-- `HOST_BYTE_ORDER`: OPEN and read by no rule (20_memory.md R25, 92_eei_decisions.md D18); nothing of the model reads
it. Its type is the model's choice, log entry 9. -/
opaque Config.hostByteOrder : ByteOrder

end Sys2Proof
end

