-- ==== Sys2Proof/Syntax.lean ====
section
/-! DEFINITION. The requests of the block: the seven operations of spec/opcode_table.json as `Instr`, and the request
record that encodes them (30_encoding.md R33). -/

namespace Sys2Proof

/-- The view of a cell: the 64-bit "X" view or the 32-bit "W" view (00_scope.md R10). -/
inductive View
  | full64
  | low32
  deriving DecidableEq, Repr

/-- The operations (30_encoding.md R35), each with the operands its operation uses (R33). A number is a count, compared
and never masked, so it is a Nat; that it fits in 32 bits is `Instr.wf`. -/
inductive Instr
  /-- READ (41_access.md R49). -/
  | read (num : Nat) (view : View)
  /-- WRITE (41_access.md R50). -/
  | write (num : Nat) (view : View) (wdata : Word)
  /-- RESOLVE (42_resolve.md R62). -/
  | resolve (name : List Byte)
  /-- RESET_REG (41_access.md R51). -/
  | resetReg (num : Nat)
  /-- RESET_ALL (41_access.md R52). -/
  | resetAll
  /-- NREAD (42_resolve.md R63). -/
  | nread (name : List Byte)
  /-- NWRITE (42_resolve.md R64). -/
  | nwrite (name : List Byte) (wdata : Word)
  deriving DecidableEq, Repr

/-- The request record (30_encoding.md R33): what the requester presents. It is not serialised into bytes. -/
structure Request where
  hdr   : Byte
  num   : BitVec 32
  wdata : Word
  name  : List Byte
  deriving DecidableEq, Repr

end Sys2Proof
end

