-- ==== Sys2Proof/WellFormed.lean ====
section
/-! DEFINITION. Which instruction terms a request can express. -/

namespace Sys2Proof

/-- A number operand fits in `NUMW` = 32 bits (30_encoding.md R33, 20_memory.md R23). A number above 33 is well formed:
it is a defined error, not a bad encoding (41_access.md R48). -/
def numFits (num : Nat) : Bool := decide (num < 2 ^ Config.numw)

/-- The instruction has an encoding. Names have no length limit and any bytes (30_encoding.md R33, R38), and every write
data is legal (20_memory.md R26), so only numbers are checked. -/
def Instr.wf : Instr → Bool
  | .read num _ => numFits num
  | .write num _ _ => numFits num
  | .resolve _ => true
  | .resetReg num => numFits num
  | .resetAll => true
  | .nread _ => true
  | .nwrite _ _ => true

end Sys2Proof
end

