-- ==== Sys2Proof/Decode.lean ====
section
/-! DEFINITION. The header byte, the decoder and the encoder (30_encoding.md R34 to R38, R41), and the host's table word
laid out as a request record. -/

namespace Sys2Proof

/-- `op` = hdr[2:0] (30_encoding.md R34). -/
def Request.op (r : Request) : BitVec 3 := r.hdr.extractLsb' 0 3

/-- `view` = hdr[3] (30_encoding.md R34). -/
def Request.viewBit (r : Request) : Bool := r.hdr.getLsbD 3

/-- `rsv` = hdr[7:4] (30_encoding.md R34). -/
def Request.rsv (r : Request) : BitVec 4 := r.hdr.extractLsb' 4 4

/-- The view bit's meaning: 0 selects `Full64`, 1 selects `Low32` (30_encoding.md R36). -/
def View.ofBit : Bool → View
  | false => .full64
  | true => .low32

/-- The inverse of `View.ofBit` (30_encoding.md R36, R40 for `rview`). -/
def View.toBit : View → Bool
  | .full64 => false
  | .low32 => true

/-- Why a header is refused: the two reserved encodings, the only ones (30_encoding.md R38). -/
inductive ReservedEncoding
  /-- hdr[7:4] is not zero, whatever `op` is. -/
  | rsvNotZero
  /-- `op` is 111. -/
  | opReserved
  deriving DecidableEq, Repr

/-- The operation that `op` selects, taking only the fields it uses (30_encoding.md R35 to R37). -/
def decodeOp (r : Request) : Except ReservedEncoding Instr :=
  match r.op.toNat with
  | 0 => .ok (.read r.num.toNat (View.ofBit r.viewBit))
  | 1 => .ok (.write r.num.toNat (View.ofBit r.viewBit) r.wdata)
  | 2 => .ok (.resolve r.name)
  | 3 => .ok (.resetReg r.num.toNat)
  | 4 => .ok .resetAll
  | 5 => .ok (.nread r.name)
  | 6 => .ok (.nwrite r.name r.wdata)
  | _ => .error .opReserved

/-- Decode a request, admitting or rejecting it by its header alone: first `rsv`, then `op` (30_encoding.md R38). Total:
what it does not admit it rejects by name. -/
def decode (r : Request) : Except ReservedEncoding Instr :=
  if r.rsv ≠ 0 then .error .rsvNotZero else decodeOp r

/-- The header of an operation whose view bit is used: bit 3 is the view (30_encoding.md R34, R36). -/
def headerWithView (op : Byte) : View → Byte
  | .full64 => op
  | .low32 => op ||| 0x08

/-- Encode an instruction as a request record, by the forms of 30_encoding.md R41; the fields the operation does not
use are 0 or empty there, though R37 allows any value (log entry 10). -/
def encode : Instr → Request
  | .read num view => { hdr := headerWithView 0x00 view, num := BitVec.ofNat 32 num, wdata := 0, name := [] }
  | .write num view wdata => { hdr := headerWithView 0x01 view, num := BitVec.ofNat 32 num, wdata := wdata, name := [] }
  | .resolve name => { hdr := 0x02, num := 0, wdata := 0, name := name }
  | .resetReg num => { hdr := 0x03, num := BitVec.ofNat 32 num, wdata := 0, name := [] }
  | .resetAll => { hdr := 0x04, num := 0, wdata := 0, name := [] }
  | .nread name => { hdr := 0x05, num := 0, wdata := 0, name := name }
  | .nwrite name wdata => { hdr := 0x06, num := 0, wdata := wdata, name := name }

/-- The table's word as a record, its fields in the order of the table's `format` (hdr 8 bits, num 32, wdata 64, then name
bytes), the first in the lowest bits; what lies above `nbits` is 0 or absent. The spec serialises no request, so this
layout is the model's (log entry 6). -/
def Request.ofTableWord (nbits w : Nat) : Request :=
  let v := w % 2 ^ nbits
  { hdr := BitVec.ofNat 8 v
    num := BitVec.ofNat 32 (v >>> 8)
    wdata := BitVec.ofNat 64 (v >>> 40)
    name := (List.range ((nbits - 104) / 8)).map fun i => BitVec.ofNat 8 (v >>> (104 + 8 * i)) }

/-- The instruction the decoder reads from an instruction word of the opcode table. -/
def decodeTableWord (nbits w : Nat) : Option Instr :=
  match decode (Request.ofTableWord nbits w) with
  | .ok i => some i
  | .error _ => none

end Sys2Proof
end

