-- ==== Sys2Proof/Machine/State.lean ====
section
/-! DEFINITION. The state of the block as plain data (10_state.md R11), the responses it returns (30_encoding.md R39, R40),
the inputs it takes, the reasons a step can stop, and the state after construction or reset (70_reset_and_hazards.md R79). -/

namespace Sys2Proof.Machine

/-- The two members of the error taxonomy, each with the operand it records (60_exceptions.md R67, R68). -/
inductive Error
  /-- A number above 33, given to READ, WRITE or RESET_REG. -/
  | outOfRange (num : Nat)
  /-- A name that `resolve` does not resolve, given to RESOLVE, NREAD or NWRITE. -/
  | unresolvableName (name : List Byte)
  deriving DecidableEq, Repr

/-- The data item of an OK response (30_encoding.md R40). -/
inductive Datum
  /-- `rdata`, the value a READ or NREAD read. -/
  | rdata (value : Word)
  /-- `rnum` and `rview`, what a RESOLVE resolved. -/
  | resolved (rnum : CellNum) (rview : View)
  deriving DecidableEq, Repr

/-- A response: OK with at most one data item, or an error, which has no data item to read (30_encoding.md R39, R40). -/
inductive Response
  | ok (data : Option Datum)
  | error (e : Error)
  deriving DecidableEq, Repr

/-- What the outside can send the block between two steps: a request (30_encoding.md R33), or the hardware reset
(70_reset_and_hazards.md R80). -/
inductive Input
  | request (r : Request)
  | hardwareReset
  deriving DecidableEq, Repr

/-- The block between two requests. `cells` is the whole mutable state of the hardware, index `i` holding `x[i]`
(10_state.md R11, R13); the other three fields are the model's and carry the transaction interface. -/
structure State where
  /-- The stored values `x[0]` to `x[33]`. -/
  cells    : Vector Word 34
  /-- Inputs not yet performed, in the order of arrival (20_memory.md R30); log entry 1. -/
  inputs   : List Input
  /-- The response of the latest input performed, if it returned one (30_encoding.md R39); log entry 2. -/
  response : Option Response
  /-- The persistent mark that some request was refused (60_exceptions.md R70); log entry 3. -/
  refused  : Bool
  deriving DecidableEq, Repr

/-- Reasons to stop with a fault: none. The spec calls nothing undefined or unpredictable, and gives no row the treatment
"fault" or "stuck" (93_implementation_defined.md); both of its errors are responses. Safe: no step ends here. -/
inductive Fault
  deriving DecidableEq, Repr

/-- Reasons to give a request no meaning. -/
inductive Refusal
  /-- Raised by an arm of `exec` for an operation without a meaning yet; no arm does. Safe. -/
  | notModelled (mnemonic : String)
  /-- Raised by `step` for a request with a reserved encoding (30_encoding.md R38, 60_exceptions.md R70), with the header.
  Safe: the spec gives such a request no meaning, and a run through it cannot be claimed about. -/
  | reservedEncoding (why : ReservedEncoding) (hdr : Byte)
  deriving DecidableEq, Repr

/-- The state of construction and of power-on reset: every cell 0 (70_reset_and_hazards.md R79), no input waiting, no
response returned, nothing refused (log entries 1 to 3). -/
def State.reset : State where
  cells := Vector.replicate 34 0
  inputs := []
  response := none
  refused := false

end Sys2Proof.Machine
end

