-- ==== Sys2Proof/Machine/Ops.lean ====
section
/-! DEFINITION. The operations every request is made of: the five cell primitives (40_slicers.md R42 to R46), the two views
of one cell, the whole-file reset, the request-ending primitives `ok`, `raise` and `refuse` (00_scope.md R9), and taking
the next input. -/

namespace Sys2Proof.Machine

/-- `v[31:0]` (00_scope.md R8). -/
def low32 (v : Word) : Half := v.extractLsb' 0 32

/-- `zext_64(u)`: bits [31:0] are `u`, bits [63:32] are 0 (00_scope.md R8). -/
def zext64 (u : Half) : Word := u.setWidth 64

/-- `x[n]`, the stored value of cell `n` (00_scope.md R9). -/
def State.x (s : State) (n : CellNum) : Word := s.cells[n]

/-- `x[n] <- v` (00_scope.md R9). -/
def State.setX (s : State) (n : CellNum) (v : Word) : State := { s with cells := s.cells.set n v }

/-- The 64-bit slicer, read side (40_slicers.md R42). -/
def State.get64 (s : State) (n : CellNum) : Word := s.x n

/-- The 64-bit slicer, write side (40_slicers.md R43). -/
def State.set64 (s : State) (n : CellNum) (v : Word) : State := s.setX n v

/-- The 32-bit slicer, read side: a truncation, never a shift (40_slicers.md R44). -/
def State.get32 (s : State) (n : CellNum) : Half := low32 (s.x n)

/-- The 32-bit slicer, write side: bits [63:32] become 0 (40_slicers.md R45). -/
def State.set32 (s : State) (n : CellNum) (u : Half) : State := s.setX n (zext64 u)

/-- Restore one cell (40_slicers.md R46). -/
def State.resetCell (s : State) (n : CellNum) : State := s.setX n (Config.resetValue n)

/-- Restore every cell, in one step (41_access.md R52). -/
def State.resetCells (s : State) : State := { s with cells := Vector.ofFn Config.resetValue }

/-- Read a cell through a view, zero-extended to 64 bits (41_access.md R49). -/
def State.readView (s : State) (n : CellNum) : View → Word
  | .full64 => s.get64 n
  | .low32 => zext64 (s.get32 n)

/-- Write a cell through a view; the low view takes `wdata[31:0]` (41_access.md R50). -/
def State.writeView (s : State) (n : CellNum) (view : View) (wdata : Word) : State :=
  match view with
  | .full64 => s.set64 n wdata
  | .low32 => s.set32 n (low32 wdata)

/-- `return ok(d)`, `return ok()`: the request ends with status OK (00_scope.md R9). -/
def State.ok (s : State) (d : Option Datum) : State := { s with response := some (.ok d) }

/-- `raise`: the request ends with an error response and no cell changes. An error saves no state, changes no mode and
transfers no control (60_exceptions.md R69, R72), so this is the whole of it. -/
def State.raise (s : State) (e : Error) : State := { s with response := some (.error e) }

/-- `refuse`: the refused request is gone, no response is returned, no cell changes, and the mark is set for good
(60_exceptions.md R70); log entry 3. -/
def State.refuse (s : State) : State := { s with inputs := s.inputs.tail, response := none, refused := true }

/-- A hardware reset: the cells as after RESET_ALL (70_reset_and_hazards.md R80); it is no request, so it returns no
response (log entry 5). -/
def State.hardwareReset (s : State) : State := { s.resetCells with response := none }

/-- Take the oldest input, if there is one (20_memory.md R30). -/
def State.takeInput (s : State) : Option (Input × State) :=
  match s.inputs with
  | [] => none
  | input :: rest => some (input, { s with inputs := rest })

end Sys2Proof.Machine
end

