-- ==== Sys2Proof/Machine/Operands.lean ====
section
/-! DEFINITION. The two operand forms that select a cell: a number, with its bounds check (41_access.md R48), and a name,
through the name-resolution multiplexer (42_resolve.md R55 to R61). -/

namespace Sys2Proof.Machine

/-- `check(n)`: a number up to 33 selects the cell of that number; no wrap, no clamp (41_access.md R48). -/
def check (num : Nat) : Option CellNum := if h : num ≤ 33 then some ⟨num, Nat.lt_succ_of_le h⟩ else none

/-- The markers of a register name (42_resolve.md R57). -/
inductive Marker
  | r
  | x
  | w
  deriving DecidableEq, Repr

/-- A byte as a marker: `R` = 52, `X` = 58, `W` = 57 in hexadecimal ASCII; upper case only (42_resolve.md R56, R57). -/
def markerOf (b : Byte) : Option Marker :=
  if b = 0x52 then some .r else if b = 0x58 then some .x else if b = 0x57 then some .w else none

/-- Step 1 of `resolve`: at most one marker, and only as the first byte (42_resolve.md R55, R57). -/
def splitMarker : List Byte → Option Marker × List Byte
  | [] => (none, [])
  | b :: rest =>
    match markerOf b with
    | some m => (some m, rest)
    | none => (none, b :: rest)

/-- The view comes from the marker alone (42_resolve.md R58). -/
def viewOfMarker : Option Marker → View
  | some .w => .low32
  | some .r => .full64
  | some .x => .full64
  | none => .full64

/-- An ASCII decimal digit, `0` = 30 to `9` = 39 in hexadecimal (42_resolve.md R60). -/
def isDigit (b : Byte) : Bool := decide (0x30 ≤ b.toNat) && decide (b.toNat ≤ 0x39)

/-- A numeral: one or more digits and nothing else (42_resolve.md R60). -/
def isNumeral (base : List Byte) : Bool := !base.isEmpty && base.all isDigit

/-- The exact decimal value of a numeral, with no width limit (42_resolve.md R60). -/
def numeralValue (base : List Byte) : Nat := base.foldl (fun acc b => 10 * acc + (b.toNat - 0x30)) 0

/-- A numeral of value 0 to 30 selects the general-purpose cell of that number (42_resolve.md R60). -/
def numeralNumber (base : List Byte) : Option CellNum :=
  if isNumeral base then
    if h : numeralValue base ≤ 30 then some ⟨numeralValue base, Nat.lt_of_le_of_lt h (by decide)⟩ else none
  else none

/-- Step 2 of `resolve`: a special base name, `ZR` = 5A 52, `SP` = 53 50, `PC` = 50 43, exactly, or a numeral
(42_resolve.md R55, R59, R60). -/
def baseNumber (base : List Byte) : Option CellNum :=
  if base = [0x5A, 0x52] then some Config.zrNum
  else if base = [0x53, 0x50] then some Config.spNum
  else if base = [0x50, 0x43] then some Config.pcNum
  else numeralNumber base

/-- `resolve(s)`: a pure, total function from names to a number and a view; `none` is UnresolvableName
(42_resolve.md R55). -/
def resolve (name : List Byte) : Option (CellNum × View) :=
  match baseNumber (splitMarker name).2 with
  | some n => some (n, viewOfMarker (splitMarker name).1)
  | none => none

/-- Run `k` on the cell that a number operand selects, or raise OutOfRange (41_access.md R48). -/
def State.withNumber (s : State) (num : Nat) (k : CellNum → State) : State :=
  match check num with
  | some n => k n
  | none => s.raise (.outOfRange num)

/-- Run `k` on the cell and view that a name operand selects, or raise UnresolvableName (42_resolve.md R55). -/
def State.withName (s : State) (name : List Byte) (k : CellNum → View → State) : State :=
  match resolve name with
  | some (n, view) => k n view
  | none => s.raise (.unresolvableName name)

end Sys2Proof.Machine
end

