-- ==== Sys2Proof/Machine/Access.lean ====
section
/-! DEFINITION. The meanings of access by number and of the resets (41_access.md R48 to R54). -/

namespace Sys2Proof.Machine

/-- READ (41_access.md R49). -/
def execRead (num : Nat) (view : View) (s : State) : Host.Outcome State Fault Refusal :=
  .next (s.withNumber num fun n => s.ok (some (.rdata (s.readView n view))))

/-- WRITE (41_access.md R50). -/
def execWrite (num : Nat) (view : View) (wdata : Word) (s : State) : Host.Outcome State Fault Refusal :=
  .next (s.withNumber num fun n => (s.writeView n view wdata).ok none)

/-- RESET_REG (41_access.md R51). -/
def execResetReg (num : Nat) (s : State) : Host.Outcome State Fault Refusal :=
  .next (s.withNumber num fun n => (s.resetCell n).ok none)

/-- RESET_ALL (41_access.md R52). -/
def execResetAll (s : State) : Host.Outcome State Fault Refusal :=
  .next (s.resetCells.ok none)

end Sys2Proof.Machine
end

