-- ==== Sys2Proof/Machine/Naming.lean ====
section
/-! DEFINITION. The meanings of RESOLVE and of access by name (42_resolve.md R62 to R65). -/

namespace Sys2Proof.Machine

/-- RESOLVE: no cell is accessed (42_resolve.md R62). -/
def execResolve (name : List Byte) (s : State) : Host.Outcome State Fault Refusal :=
  .next (s.withName name fun n view => s.ok (some (.resolved n view)))

/-- NREAD: resolve, then read through the view of the name (42_resolve.md R63). -/
def execNread (name : List Byte) (s : State) : Host.Outcome State Fault Refusal :=
  .next (s.withName name fun n view => s.ok (some (.rdata (s.readView n view))))

/-- NWRITE: resolve, then write through the view of the name (42_resolve.md R64). -/
def execNwrite (name : List Byte) (wdata : Word) (s : State) : Host.Outcome State Fault Refusal :=
  .next (s.withName name fun n view => (s.writeView n view wdata).ok none)

end Sys2Proof.Machine
end

