-- ==== Sys2Proof/Machine/Dispatch.lean ====
section
/-! DEFINITION. One arm per operation, each one call of its meaning. -/

namespace Sys2Proof.Machine

-- The operations in the order of 30_encoding.md R35.
def exec (i : Instr) (s : State) : Host.Outcome State Fault Refusal :=
  match i with
  | .read num view => Sys2Proof.Machine.execRead num view s
  | .write num view wdata => Sys2Proof.Machine.execWrite num view wdata s
  | .resolve name => Sys2Proof.Machine.execResolve name s
  | .resetReg num => Sys2Proof.Machine.execResetReg num s
  | .resetAll => Sys2Proof.Machine.execResetAll s
  | .nread name => Sys2Proof.Machine.execNread name s
  | .nwrite name wdata => Sys2Proof.Machine.execNwrite name wdata s

end Sys2Proof.Machine
end

