-- ==== Sys2Proof/Machine/Step.lean ====
section
/-! DEFINITION. One step performs the oldest input whole (00_scope.md R5, 20_memory.md R28, R30). -/

namespace Sys2Proof.Machine

/-- Perform a request: the header is checked for refusal first, then the operation runs (60_exceptions.md R71). -/
def stepRequest (r : Request) (s : State) : Host.Outcome State Fault Refusal :=
  match decode r with
  | .ok i => exec i s
  | .error why => .refused (.reservedEncoding why r.hdr)

/-- One step: take the oldest input and perform it. With no input waiting the block changes nothing
(log entry 4). -/
def step (s : State) : Host.Outcome State Fault Refusal :=
  match s.takeInput with
  | none => .next s
  | some (.hardwareReset, t) => .next t.hardwareReset
  | some (.request r, t) => stepRequest r t

/-- `s` with the table's word as the oldest input, so that the next step performs it (log entry 6). -/
def State.withFetchWord (s : State) (nbits w : Nat) : State :=
  { s with inputs := .request (Request.ofTableWord nbits w) :: s.inputs }

end Sys2Proof.Machine
end

