-- ==== Sys2Proof/Machine/Flags.lean ====
section
/-! DEFINITION. The block has no flags and no condition codes (10_state.md R20). Its only condition code is the status of a
response, computed here (30_encoding.md R39, R40). -/

namespace Sys2Proof.Machine

/-- The status code: OK 00, OutOfRange 01, UnresolvableName 10 (30_encoding.md R39). -/
def Response.status : Response → BitVec 2
  | .ok _ => 0b00
  | .error (.outOfRange _) => 0b01
  | .error (.unresolvableName _) => 0b10

/-- The `rview` bit of a data item that has one: the encoding of the view bit (30_encoding.md R40, R36). -/
def Datum.rviewBit : Datum → Option Bool
  | .rdata _ => none
  | .resolved _ view => some view.toBit

end Sys2Proof.Machine
end

