-- ==== Sys2Proof/Machine/Diagnostics.lean ====
section
/-! DEFINITION. A register file with its owning core's identity (10_state.md R11, R21), and its diagnostic rendering, which
reads the state, writes nothing and is no step (60_exceptions.md R77). The content and order of the rendering are the
spec's; its characters are the open `RENDER_FORMAT` of Config. -/

namespace Sys2Proof.Machine

/-- One register file: its cells and interface, and the constant identity of the core that owns it (10_state.md R21). -/
structure RegisterFile where
  coreName   : List Byte
  coreNumber : Nat
  bank       : State
  deriving DecidableEq, Repr

/-- What a cell renders as: its number, its name and its value as 16 hexadecimal digits, the first the most significant
(60_exceptions.md R77). -/
structure RenderedCell where
  number : CellNum
  name   : List Byte
  digits : List (BitVec 4)
  deriving DecidableEq, Repr

/-- What a file renders as: a header that names the owning core, then one line per cell (60_exceptions.md R77). -/
structure RenderedFile where
  coreName   : List Byte
  coreNumber : Nat
  lines      : List RenderedCell
  deriving DecidableEq, Repr

/-- `new(name, number)`: construction (70_reset_and_hazards.md R79). -/
def RegisterFile.new (name : List Byte) (number : Nat) : RegisterFile :=
  { coreName := name, coreNumber := number, bank := State.reset }

/-- The file of the machine's one core, with the open identity of Config. -/
def RegisterFile.ofState (s : State) : RegisterFile :=
  { coreName := Config.coreName, coreNumber := Config.coreNumber, bank := s }

/-- The ASCII decimal digits of a number below 100. -/
def decimalDigits (n : Nat) : List Byte :=
  if n < 10 then [BitVec.ofNat 8 (0x30 + n)] else [BitVec.ofNat 8 (0x30 + n / 10), BitVec.ofNat 8 (0x30 + n % 10)]

/-- The display name of a cell: R0 to R30, ZR, SP, PC (10_state.md R12). Resolution never reads it (42_resolve.md R61). -/
def cellName (n : CellNum) : List Byte :=
  if n = Config.zrNum then [0x5A, 0x52]
  else if n = Config.spNum then [0x53, 0x50]
  else if n = Config.pcNum then [0x50, 0x43]
  else 0x52 :: decimalDigits n.val

/-- A value as 16 hexadecimal digits, the most significant first (60_exceptions.md R77). -/
def hexDigits (v : Word) : List (BitVec 4) := (List.range 16).map fun i => v.extractLsb' (60 - 4 * i) 4

/-- A cell's rendering (60_exceptions.md R77). -/
def State.renderCell (s : State) (n : CellNum) : RenderedCell :=
  { number := n, name := cellName n, digits := hexDigits (s.x n) }

/-- A file's rendering: its lines in ascending number order, 0 to 33 (60_exceptions.md R77). -/
def RegisterFile.render (f : RegisterFile) : RenderedFile :=
  { coreName := f.coreName, coreNumber := f.coreNumber, lines := (List.finRange 34).map f.bank.renderCell }

/-- The characters of a rendering, by the open format of Config (92_eei_decisions.md D25); log entry 9. -/
def RenderedFile.text (r : RenderedFile) : List Byte :=
  Config.renderHeader r.coreName r.coreNumber
    ++ r.lines.flatMap fun c => Config.renderLine c.number.val c.name c.digits

end Sys2Proof.Machine
end

