-- ==== Sys2Proof/Machine/Platform.lean ====
section
/-! DEFINITION. Several cores: one register file each, owned by its core and shared with none (10_state.md R22,
60_exceptions.md R76). -/

namespace Sys2Proof.Machine

/-- The register files of the cores, one per core. -/
abbrev Platform := List RegisterFile

/-- Perform the oldest input of the file of core `k`. Which core goes next is the caller's choice (log entry 12).
DESIGN CHOICE, log entry 12: the spec does not say how instances are stepped together. Where the file of core `k` refuses
its request, the whole platform step answers that refusal and gives no next platform, so nothing is recorded: that core's
mark stays as it was and its refused request stays waiting. The service of log entry 3 is for one file only. -/
def Platform.stepCore (p : Platform) (k : Fin p.length) : Host.Outcome Platform Fault Refusal :=
  match step p[k].bank with
  | .next t => .next (p.set k { p[k] with bank := t })
  | .fault f => .fault f
  | .refused r => .refused r

end Sys2Proof.Machine
end

