-- ==== Sys2Proof/Machine/Service.lean ====
section
/-! DEFINITION. The block in service: it accepts the next request after any outcome, a refusal included
(60_exceptions.md R70, R73). `step` stops at a refused request, to which the model gives no meaning; here the refusal is
recorded in the state's mark and the next input is performed (log entry 3). -/

namespace Sys2Proof.Machine

/-- The state a step leaves the block in: its next state, or after a refusal the same cells and the mark. -/
def State.afterStep (s : State) : State :=
  match step s with
  | .next t => t
  | .fault f => nomatch f
  | .refused _ => s.refuse

/-- The block after `k` steps in service. -/
def State.serve : Nat → State → State
  | 0, s => s
  | k + 1, s => State.serve k s.afterStep

end Sys2Proof.Machine
end

