-- ==== Sys2Proof/Safety.lean ====
section
/-! DEFINITION. What counts as a safe run, and the spec's own terms that claims use: the table of resolvable names, what an
input stores into a cell, and an honest response. -/

namespace Sys2Proof.Safety

open Sys2Proof.Machine

/-- The run of `k` steps meets no refusal ("nothing refused", 60_exceptions.md R70). -/
def NothingRefused (k : Nat) (s : State) : Prop := ∃ t : State, Host.Core.run Sys2Proof.core k s = .next t

/-- The latest response is not OutOfRange, the error that means a bug of the executor (90_conflicts.md C6). -/
def NoOutOfRange (s : State) : Prop := ∀ num, s.response ≠ some (.error (.outOfRange num))

/-- A run in which no request is refused and none ends in OutOfRange, after each of its `k` steps. -/
def SafeRun (k : Nat) (s : State) : Prop :=
  NothingRefused k s ∧ ∀ j, j < k → NoOutOfRange (State.serve (j + 1) s)

/-- The value of a view of a stored value, in plain arithmetic: the whole, or the value mod 2^32 (00_scope.md R8). -/
def viewValue : View → Word → Nat
  | .full64, v => v.toNat
  | .low32, v => v.toNat % 2 ^ 32

/-- Every cell is unchanged. -/
def SameCells (s t : State) : Prop := ∀ m, t.x m = s.x m

/-- Every cell but cell `n` is unchanged. -/
def SameCellsExcept (n : CellNum) (s t : State) : Prop := ∀ m, m ≠ n → t.x m = s.x m

/-- The rest of the state that a request does not answer through: the waiting inputs and the refusal mark. -/
def SameRest (s t : State) : Prop := t.inputs = s.inputs ∧ t.refused = s.refused

/-- A header is reserved: `op` = 111 or hdr[7:4] not zero (30_encoding.md R38), as its masks say it. -/
def ReservedHeader (hdr : Byte) : Prop := hdr &&& 0xF0 ≠ 0 ∨ hdr &&& 0x07 = 0x07

/-- The view that a header's view bit selects: bit 3, 0 for `Full64` and 1 for `Low32` (30_encoding.md R36). -/
def headerView (hdr : Byte) : View := if hdr &&& 0x08 = 0 then .full64 else .low32

/-- The three markers `R`, `X` and `W` (42_resolve.md R57). -/
def markerBytes : List Byte := [0x52, 0x58, 0x57]

/-- The bytes of resolvable names: `R X W Z S P C` and `0` to `9` (42_resolve.md R56). -/
def nameBytes : List Byte :=
  [0x52, 0x58, 0x57, 0x5A, 0x53, 0x50, 0x43, 0x30, 0x31, 0x32, 0x33, 0x34, 0x35, 0x36, 0x37, 0x38, 0x39]

/-- A digit 0 to 9 as its ASCII byte. -/
def digitByte (d : Fin 10) : Byte := BitVec.ofNat 8 (0x30 + d.val)

/-- An input that a correct executor sends: a hardware reset, or a request with an admitted header and, where the
operation takes a number, one of the 34 numbers (30_encoding.md R38, 41_access.md R48, 90_conflicts.md C6). -/
def CorrectInput : Input → Prop
  | .hardwareReset => True
  | .request r => ¬ ReservedHeader r.hdr ∧ (r.hdr &&& 0x07 ∈ [0x00, 0x01, 0x03] → r.num.toNat ≤ 33)

/-- Two requests agree on every field that the operation of the first uses, and on the rest of the header
(30_encoding.md R33, R37). -/
def AgreeOnUsedFields (r r' : Request) : Prop :=
  r.hdr &&& 0xF7 = r'.hdr &&& 0xF7 ∧
  (r.hdr &&& 0x07 ∈ [0x00, 0x01] → r.hdr &&& 0x08 = r'.hdr &&& 0x08) ∧
  (r.hdr &&& 0x07 ∈ [0x00, 0x01, 0x03] → r.num = r'.num) ∧
  (r.hdr &&& 0x07 ∈ [0x01, 0x06] → r.wdata = r'.wdata) ∧
  (r.hdr &&& 0x07 ∈ [0x02, 0x05, 0x06] → r.name = r'.name)

/-- A nonempty sequence of ASCII decimal digits with its decimal value: the numerals of 42_resolve.md R60, spelt as the
digits' values, the last digit the units. -/
inductive NumeralOf : List Byte → Nat → Prop
  | digit (d : Fin 10) : NumeralOf [digitByte d] d.val
  | more (base : List Byte) (v : Nat) (d : Fin 10) : NumeralOf base v → NumeralOf (base ++ [digitByte d]) (10 * v + d.val)

/-- A base name and its number (42_resolve.md R59, R60). -/
inductive BaseNameOf : List Byte → CellNum → Prop
  | numeral (base : List Byte) (n : CellNum) : NumeralOf base n.val → n.val ≤ 30 → BaseNameOf base n
  | zr : BaseNameOf [0x5A, 0x52] 31
  | sp : BaseNameOf [0x53, 0x50] 32
  | pc : BaseNameOf [0x50, 0x43] 33

/-- The complete set of resolvable names (42_resolve.md R61): a base name alone or after `R` or `X` with the 64-bit view,
after `W` with the 32-bit view. -/
inductive ResolvableName : List Byte → CellNum → View → Prop
  | bare (base : List Byte) (n : CellNum) : BaseNameOf base n → ResolvableName base n .full64
  | withR (base : List Byte) (n : CellNum) : BaseNameOf base n → ResolvableName (0x52 :: base) n .full64
  | withX (base : List Byte) (n : CellNum) : BaseNameOf base n → ResolvableName (0x58 :: base) n .full64
  | withW (base : List Byte) (n : CellNum) : BaseNameOf base n → ResolvableName (0x57 :: base) n .low32

/-- The value an instruction stores into cell `n`, if it stores one (41_access.md R50 to R52, R54, 42_resolve.md R64). -/
def storedBy (n : CellNum) : Instr → Option Word
  | .read _ _ => none
  | .write num view wdata => if num = n.val then some (BitVec.ofNat 64 (viewValue view wdata)) else none
  | .resolve _ => none
  | .resetReg num => if num = n.val then some 0 else none
  | .resetAll => some 0
  | .nread _ => none
  | .nwrite name wdata =>
    match Machine.resolve name with
    | some (m, view) => if m = n then some (BitVec.ofNat 64 (viewValue view wdata)) else none
    | none => none

/-- The value an input stores into cell `n`, if it stores one; a refused request stores nothing (60_exceptions.md R70),
and a hardware reset stores 0 (70_reset_and_hazards.md R80). -/
def storedByInput (n : CellNum) : Input → Option Word
  | .hardwareReset => some 0
  | .request r =>
    match decode r with
    | .ok i => storedBy n i
    | .error _ => none

/-- The value of cell `n` after a list of inputs, oldest first: that of the latest of them that stores into it, or the
value before them (20_memory.md R30). -/
def latestValue (n : CellNum) (before : Word) (inputs : List Input) : Word :=
  (inputs.reverse.findSome? (storedByInput n)).getD before

/-- The response in the state tells the truth: an error names an operand that is really bad (60_exceptions.md R67, R68),
a read's data is the value of a view of a cell as it now stands, since a read changes nothing (20_memory.md R29), and a
resolution is one of the table. -/
def HonestResponse (s : State) : Prop :=
  match s.response with
  | none => True
  | some (.ok none) => True
  | some (.ok (some (.rdata v))) => ∃ n view, v.toNat = viewValue view (s.x n)
  | some (.ok (some (.resolved n view))) => ∃ name, ResolvableName name n view
  | some (.error (.outOfRange num)) => 33 < num
  | some (.error (.unresolvableName name)) => ∀ n view, ¬ ResolvableName name n view

end Sys2Proof.Safety
end

