-- ==== Sys2Proof/Certificates/Slice0/Obligations.lean ====
section
/-! DEFINITION. The statements for the provers, in the order of spec/: encoding, the step, refusals and errors, the cell
primitives, the seven requests, name resolution, reset, ordering, invariants, several cores, the rendering. -/

open Sys2Proof Sys2Proof.Machine Sys2Proof.Safety

/-! ### Encoding -/

/-- Every well-formed instruction is what the decoder reads from its encoding: no operand bit is dropped
(30_encoding.md, sections 1 and 3). -/
def Obligations.DecodeInvertsEncode : Prop :=
  ∀ i : Instr, i.wf = true → decode (encode i) = .ok i

/-- What the decoder reads is well formed, and encoding it gives back every field the operation uses
(30_encoding.md, section 1). -/
def Obligations.EncodeInvertsDecodeOnUsedFields : Prop :=
  ∀ (r : Request) (i : Instr), decode r = .ok i → i.wf = true ∧ AgreeOnUsedFields (encode i) r

/-- R37: a field that the operation does not use has no effect on the decoded instruction, on the next state or on the
response in it. -/
def Obligations.UnusedFieldsAreIgnored : Prop :=
  ∀ r r' : Request, AgreeOnUsedFields r r' →
    decode r = decode r' ∧ (¬ ReservedHeader r.hdr → ∀ s : State, stepRequest r s = stepRequest r' s)

/-- A header is admitted exactly when `hdr & 0xF7` is 0x00 to 0x06, and refused exactly when `hdr & 0xF0` is not 0 or
`hdr & 0x07` is 7; the other fields take no part (30_encoding.md, section 1). -/
def Obligations.HeaderAloneDecidesAdmission : Prop :=
  ∀ r : Request, ((∃ i, decode r = .ok i) ↔ (r.hdr &&& 0xF7).toNat ≤ 0x06) ∧
    ((∃ why, decode r = .error why) ↔ ReservedHeader r.hdr)

/-- Headers written out bit by bit from the table's encodings decode to their operations (vectors of 95_test_vectors.md). -/
def Obligations.SampleHeadersDecode : Prop :=
  decode ⟨0b00000000, 2, 0, []⟩ = .ok (.read 2 .full64) ∧
  decode ⟨0b00001000, 0xFFFFFFFF, 0, []⟩ = .ok (.read 4294967295 .low32) ∧
  decode ⟨0b00001001, 34, 7, []⟩ = .ok (.write 34 .low32 7) ∧
  decode ⟨0b00000010, 0, 0, [0x57, 0x32]⟩ = .ok (.resolve [0x57, 0x32]) ∧
  decode ⟨0b00000011, 9, 0, []⟩ = .ok (.resetReg 9) ∧
  decode ⟨0b00000100, 99, 0, []⟩ = .ok .resetAll ∧
  decode ⟨0b00001101, 0, 0, [0x58, 0x35]⟩ = .ok (.nread [0x58, 0x35]) ∧
  decode ⟨0b00000110, 0, 5, [0x52, 0x33, 0x31]⟩ = .ok (.nwrite [0x52, 0x33, 0x31] 5) ∧
  decode ⟨0b00000111, 0, 0, []⟩ = .error .opReserved ∧
  decode ⟨0b10000000, 34, 0, []⟩ = .error .rsvNotZero

/-! ### The step -/

/-- The next step performs the instruction that the oldest input decodes to, on the state without that input; placing a
table word makes it the oldest input and changes nothing else. -/
def Obligations.StepPerformsDecodedRequest : Prop :=
  (∀ (s : State) (r : Request) (rest : List Input) (i : Instr),
    s.inputs = .request r :: rest → decode r = .ok i → step s = exec i { s with inputs := rest }) ∧
  (∀ (s : State) (nbits w : Nat) (i : Instr),
    decodeTableWord nbits w = some i → step (s.withFetchWord nbits w) = exec i s)

/-- The model's own choice of interface, log entries 1, 3, 4 and 5: with no input waiting a step changes nothing at all, and
otherwise each step, a refused one in service too, uses up exactly the oldest input. -/
def Obligations.EachStepTakesTheOldestInput : Prop :=
  (∀ s : State, s.inputs = [] → step s = .next s) ∧
  (∀ (s : State) (input : Input) (rest : List Input), s.inputs = input :: rest → s.afterStep.inputs = rest)

/-- No step faults, and a step stops with a refusal exactly when the oldest input is a request with a reserved header
(60_exceptions.md, sections 1 and 3). -/
def Obligations.StepStopsExactlyOnReservedHeaders : Prop :=
  ∀ s : State, (∀ f, step s ≠ .fault f) ∧
    ((∃ why, step s = .refused why) ↔ ∃ r rest, s.inputs = .request r :: rest ∧ ReservedHeader r.hdr)

/-! ### Outcomes -/

/-- R66: a request ends in exactly one of four outcomes: refused, or a response of status OK, OutOfRange or
UnresolvableName, the latter two with every cell unchanged; the status code 11 is never produced. -/
def Obligations.RequestEndsInOneOfFourOutcomes : Prop :=
  ∀ (s : State) (r : Request) (rest : List Input), s.inputs = .request r :: rest →
    (ReservedHeader r.hdr ∧ ∃ why, step s = .refused why) ∨
    (¬ ReservedHeader r.hdr ∧ ∃ t answer, step s = .next t ∧ t.response = some answer ∧
      ((answer.status = 0b00 ∧ ∃ d, answer = .ok d) ∨
       (answer.status = 0b01 ∧ (∃ num, answer = .error (.outOfRange num)) ∧ SameCells s t) ∨
       (answer.status = 0b10 ∧ (∃ name, answer = .error (.unresolvableName name)) ∧ SameCells s t)))

/-- R70: a request with `op` = 111 or hdr[7:4] not 0 is refused, whatever its other fields; in service no cell changes, no
response is returned, and the mark is set and stays set in every later state. -/
def Obligations.RefusalLeavesOnlyTheMark : Prop :=
  ∀ (s : State) (r : Request) (rest : List Input), s.inputs = .request r :: rest → ReservedHeader r.hdr →
    (∃ why, step s = .refused (.reservedEncoding why r.hdr)) ∧
    SameCells s s.afterStep ∧ s.afterStep.response = none ∧
    ∀ k, (State.serve k s.afterStep).refused = true

/-- R48: `check` admits a number exactly when it is at most 33, as the cell of that very number; READ, WRITE and RESET_REG
with another number, and no other operation, end with OutOfRange of that number, and then no cell changes. -/
def Obligations.OutOfRangeExactlyAbove33 : Prop :=
  (∀ num n, check num = some n ↔ num = n.val) ∧ (∀ num, (∃ n, check num = some n) ↔ num ≤ 33) ∧
  ∀ (i : Instr) (s : State), ∃ t, exec i s = .next t ∧ ∀ num : Nat,
    (t.response = some (.error (.outOfRange num)) ↔
      33 < num ∧ ((∃ view, i = .read num view) ∨ (∃ view wdata, i = .write num view wdata) ∨ i = .resetReg num)) ∧
    (t.response = some (.error (.outOfRange num)) → SameCells s t)

/-- R68: RESOLVE, NREAD and NWRITE end with UnresolvableName of their name exactly when it is not in the table of
resolvable names, and no other operation does; the outcome is an ordinary next state. -/
def Obligations.UnresolvableNameExactlyOutsideTheTable : Prop :=
  ∀ (i : Instr) (s : State), ∃ t, exec i s = .next t ∧ ∀ name : List Byte,
    (t.response = some (.error (.unresolvableName name)) ↔
      (∀ n view, ¬ ResolvableName name n view) ∧
        (i = .resolve name ∨ i = .nread name ∨ ∃ wdata, i = .nwrite name wdata))

/-- R69: an error is precise: a request that ends in OutOfRange or UnresolvableName leaves all 34 cells as they were. -/
def Obligations.ErrorsChangeNoCell : Prop :=
  ∀ (i : Instr) (s t : State) (e : Error), exec i s = .next t → t.response = some (.error e) → SameCells s t

/-- R54: a cell changes only through a WRITE or RESET_REG of its number, a RESET_ALL, or an NWRITE of a name of it; and no
cell changes in a request that ends in an error or a refusal. -/
def Obligations.OnlyWritesAndResetsChangeCells : Prop :=
  (∀ (i : Instr) (s t : State) (n : CellNum), exec i s = .next t → t.x n ≠ s.x n →
    (∃ d, t.response = some (.ok d)) ∧
    ((∃ view wdata, i = .write n.val view wdata) ∨ i = .resetReg n.val ∨ i = .resetAll ∨
      ∃ name view wdata, i = .nwrite name wdata ∧ ResolvableName name n view)) ∧
  (∀ s : State, (∃ why, step s = .refused why) → SameCells s s.afterStep)

/-- R39: the three status codes, and that 11 is never one. -/
def Obligations.StatusCodes : Prop :=
  (∀ d, (Response.ok d).status = 0b00) ∧ (∀ num, (Response.error (.outOfRange num)).status = 0b01) ∧
  (∀ name, (Response.error (.unresolvableName name)).status = 0b10) ∧ ∀ r : Response, r.status ≠ 0b11

/-- R40: the data item of an OK response: `rdata` for READ and NREAD, `rnum` and `rview` for RESOLVE, the view encoded as in
a header, and none for the others. An error response has no data item by its type. -/
def Obligations.DataItemOfEachOperation : Prop :=
  (∀ (i : Instr) (s t : State) (d : Option Datum), exec i s = .next t → t.response = some (.ok d) →
    ((∃ v, d = some (.rdata v)) ↔ (∃ num view, i = .read num view) ∨ ∃ name, i = .nread name) ∧
    ((∃ n view, d = some (.resolved n view)) ↔ ∃ name, i = .resolve name) ∧
    (d = none ↔ (∃ num view wdata, i = .write num view wdata) ∨ (∃ name wdata, i = .nwrite name wdata) ∨
      (∃ num, i = .resetReg num) ∨ i = .resetAll)) ∧
  ∀ (hdr : Byte) (n : CellNum), (Datum.resolved n (headerView hdr)).rviewBit = some (hdr.getLsbD 3)

/-! ### The cell primitives -/

/-- R42 to R46: what each of the five primitives of a cell returns or stores, and that it writes no other cell. -/
def Obligations.CellPrimitives : Prop :=
  ∀ (s : State) (n : CellNum) (v : Word) (u : Half),
    s.get64 n = s.x n ∧
    ((s.set64 n v).x n = v ∧ SameCellsExcept n s (s.set64 n v)) ∧
    ((s.get32 n).toNat = (s.x n).toNat % 2 ^ 32 ∧ ∀ b, b < 32 → (s.get32 n).getLsbD b = (s.x n).getLsbD b) ∧
    (((s.set32 n u).x n).toNat = u.toNat ∧ (∀ b, 32 ≤ b → ((s.set32 n u).x n).getLsbD b = false) ∧
      SameCellsExcept n s (s.set32 n u)) ∧
    ((s.resetCell n).x n = Config.resetValue n ∧ Config.resetValue n = 0 ∧ SameCellsExcept n s (s.resetCell n))

/-- R47: the two views of a cell alias one storage element. -/
def Obligations.ViewsAliasOneCell : Prop :=
  ∀ (s : State) (n : CellNum) (v : Word) (u : Half),
    (s.set64 n v).get64 n = v ∧
    ((s.set64 n v).get32 n).toNat = v.toNat % 2 ^ 32 ∧
    (s.set32 n u).get32 n = u ∧
    ((s.set32 n u).get64 n).toNat = u.toNat ∧
    (s.resetCell n).get64 n = 0

/-! ### Access by number and the resets -/

/-- R49: READ, its encoding and its result in every state: the value of the view, zero-extended, for each of the 34
numbers, and OutOfRange above them; no cell is written. -/
def Obligations.ReadByNumber : Prop :=
  (∀ r : Request, r.hdr &&& 0xF7 = 0x00 → decode r = .ok (.read r.num.toNat (headerView r.hdr))) ∧
  ∀ (s : State) (num : Nat) (view : View),
    (∀ n : CellNum, num = n.val → ∃ t v, exec (.read num view) s = .next t ∧
      t.response = some (.ok (some (.rdata v))) ∧ v.toNat = viewValue view (s.x n) ∧ SameCells s t ∧ SameRest s t) ∧
    (33 < num → ∃ t, exec (.read num view) s = .next t ∧
      t.response = some (.error (.outOfRange num)) ∧ SameCells s t ∧ SameRest s t)

/-- R50: WRITE, its encoding and its result in every state: the cell holds `wdata`, or `wdata[31:0]` zero-extended, and no
other cell changes; OutOfRange above 33, and then no cell changes. -/
def Obligations.WriteByNumber : Prop :=
  (∀ r : Request, r.hdr &&& 0xF7 = 0x01 → decode r = .ok (.write r.num.toNat (headerView r.hdr) r.wdata)) ∧
  ∀ (s : State) (num : Nat) (view : View) (wdata : Word),
    (∀ n : CellNum, num = n.val → ∃ t, exec (.write num view wdata) s = .next t ∧
      t.response = some (.ok none) ∧ (t.x n).toNat = viewValue view wdata ∧ SameCellsExcept n s t ∧ SameRest s t) ∧
    (33 < num → ∃ t, exec (.write num view wdata) s = .next t ∧
      t.response = some (.error (.outOfRange num)) ∧ SameCells s t ∧ SameRest s t)

/-- R51: RESET_REG, its encoding and its result in every state: the whole cell is 0 and no other cell changes; OutOfRange
above 33, and then no cell changes. -/
def Obligations.ResetOneCell : Prop :=
  (∀ r : Request, r.hdr &&& 0xF7 = 0x03 → decode r = .ok (.resetReg r.num.toNat)) ∧
  ∀ (s : State) (num : Nat),
    (∀ n : CellNum, num = n.val → ∃ t, exec (.resetReg num) s = .next t ∧
      t.response = some (.ok none) ∧ t.x n = 0 ∧ SameCellsExcept n s t ∧ SameRest s t) ∧
    (33 < num → ∃ t, exec (.resetReg num) s = .next t ∧
      t.response = some (.error (.outOfRange num)) ∧ SameCells s t ∧ SameRest s t)

/-- R52: RESET_ALL, its encoding and its result in every state: in one step every cell is 0. -/
def Obligations.ResetEveryCell : Prop :=
  (∀ r : Request, r.hdr &&& 0xF7 = 0x04 → decode r = .ok .resetAll) ∧
  ∀ s : State, ∃ t, exec .resetAll s = .next t ∧
    t.response = some (.ok none) ∧ (∀ n, t.x n = Config.resetValue n ∧ t.x n = 0) ∧ SameRest s t

/-- R53: every cell, ZR, SP and PC like the others, is written and read back through either view, with every value; and the
PC changes only in a WRITE of 33, an NWRITE of a PC name, or a reset. -/
def Obligations.SpecialCellsAreOrdinary : Prop :=
  (∀ (s : State) (n : CellNum) (view view' : View) (wdata : Word),
    ∃ t u v, exec (.write n.val view wdata) s = .next t ∧ exec (.read n.val view') t = .next u ∧
      u.response = some (.ok (some (.rdata v))) ∧
      v.toNat = (if view = .full64 ∧ view' = .full64 then wdata.toNat else wdata.toNat % 2 ^ 32)) ∧
  (∀ s t : State, step s = .next t → t.x 33 ≠ s.x 33 →
    (∃ rest, s.inputs = .hardwareReset :: rest) ∨
    ∃ r rest i, s.inputs = .request r :: rest ∧ decode r = .ok i ∧
      ((∃ view wdata, i = .write 33 view wdata) ∨ i = .resetReg 33 ∨ i = .resetAll ∨
        ∃ name wdata, i = .nwrite name wdata ∧
          name ∈ ([[0x50, 0x43], [0x52, 0x50, 0x43], [0x58, 0x50, 0x43], [0x57, 0x50, 0x43]] : List (List Byte))))

/-! ### Access by name -/

/-- R62: RESOLVE, its encoding and its result in every state: the number and view of the table for a resolvable name,
UnresolvableName for every other; no cell is written. -/
def Obligations.ResolveByName : Prop :=
  (∀ r : Request, r.hdr &&& 0xF7 = 0x02 → decode r = .ok (.resolve r.name)) ∧
  ∀ (s : State) (name : List Byte),
    (∀ n view, ResolvableName name n view → ∃ t, exec (.resolve name) s = .next t ∧
      t.response = some (.ok (some (.resolved n view))) ∧ SameCells s t ∧ SameRest s t) ∧
    ((∀ n view, ¬ ResolvableName name n view) → ∃ t, exec (.resolve name) s = .next t ∧
      t.response = some (.error (.unresolvableName name)) ∧ SameCells s t ∧ SameRest s t)

/-- R63: NREAD, its encoding and its result in every state: for a resolvable name it is the READ of the name's number and
view; for every other name UnresolvableName, the only error it raises; no cell is written. -/
def Obligations.ReadByName : Prop :=
  (∀ r : Request, r.hdr &&& 0xF7 = 0x05 → decode r = .ok (.nread r.name)) ∧
  ∀ (s : State) (name : List Byte),
    (∀ n view, ResolvableName name n view → ∃ t v, exec (.nread name) s = .next t ∧
      exec (.read n.val view) s = .next t ∧ t.response = some (.ok (some (.rdata v))) ∧
      v.toNat = viewValue view (s.x n) ∧ SameCells s t ∧ SameRest s t) ∧
    ((∀ n view, ¬ ResolvableName name n view) → ∃ t, exec (.nread name) s = .next t ∧
      t.response = some (.error (.unresolvableName name)) ∧ SameCells s t ∧ SameRest s t)

/-- R64: NWRITE, its encoding and its result in every state: for a resolvable name it is the WRITE of the name's number and
view; for every other name UnresolvableName, the only error it raises, and no cell changes. -/
def Obligations.WriteByName : Prop :=
  (∀ r : Request, r.hdr &&& 0xF7 = 0x06 → decode r = .ok (.nwrite r.name r.wdata)) ∧
  ∀ (s : State) (name : List Byte) (wdata : Word),
    (∀ n view, ResolvableName name n view → ∃ t, exec (.nwrite name wdata) s = .next t ∧
      exec (.write n.val view wdata) s = .next t ∧ t.response = some (.ok none) ∧
      (t.x n).toNat = viewValue view wdata ∧ SameCellsExcept n s t ∧ SameRest s t) ∧
    ((∀ n view, ¬ ResolvableName name n view) → ∃ t, exec (.nwrite name wdata) s = .next t ∧
      t.response = some (.error (.unresolvableName name)) ∧ SameCells s t ∧ SameRest s t)

/-! ### Name resolution -/

/-- R61: the names that `resolve` resolves, with their numbers and views, are exactly those of the table. -/
def Obligations.ResolveIsExactlyTheNameTable : Prop :=
  ∀ (name : List Byte) (n : CellNum) (view : View), resolve name = some (n, view) ↔ ResolvableName name n view

/-- R56: a name resolves only if it is not empty and every byte of it is one of the upper-case letters and digits listed. -/
def Obligations.OnlyListedBytesResolve : Prop :=
  ∀ (name : List Byte) (p : CellNum × View), resolve name = some p → name ≠ [] ∧ ∀ b ∈ name, b ∈ nameBytes

/-- R57: a second marker is not stripped, so two markers never resolve; and a marker is optional: a name without one
resolves to the number of the same base behind any marker. -/
def Obligations.AtMostOneMarker : Prop :=
  (∀ m ∈ markerBytes, ∀ m' ∈ markerBytes, ∀ rest, resolve (m :: m' :: rest) = none) ∧
  (∀ m ∈ markerBytes, ∀ base : List Byte, (∀ b, base.head? = some b → b ∉ markerBytes) →
    (resolve base).map Prod.fst = (resolve (m :: base)).map Prod.fst)

/-- R58: the view comes from the marker alone: `Low32` behind `W`, `Full64` behind `R`, `X` or no marker. -/
def Obligations.ViewComesFromTheMarkerAlone : Prop :=
  (∀ (base : List Byte) (n : CellNum) (view : View), resolve (0x57 :: base) = some (n, view) → view = .low32) ∧
  (∀ (name : List Byte) (n : CellNum) (view : View), name.head? ≠ some 0x57 → resolve name = some (n, view) →
    view = .full64)

/-- R60: a sequence of one or more digits, with any marker or none, resolves to the general-purpose number that is its
exact decimal value if that is at most 30, and to nothing otherwise; and only such names resolve to those numbers. -/
def Obligations.NumeralsResolveByExactValue : Prop :=
  (∀ (mark : List Byte) (digits : List (Fin 10)), mark ∈ [] :: markerBytes.map (fun m => [m]) → digits ≠ [] →
    (resolve (mark ++ digits.map digitByte)).map (fun p => p.1.val) =
      if Nat.ofDigits 10 (digits.reverse.map Fin.val) ≤ 30 then some (Nat.ofDigits 10 (digits.reverse.map Fin.val))
      else none) ∧
  (∀ (name : List Byte) (n : CellNum) (view : View), n.val ≤ 30 → resolve name = some (n, view) →
    ∃ mark digits, mark ∈ [] :: markerBytes.map (fun m => [m]) ∧ digits ≠ [] ∧
      name = mark ++ digits.map digitByte)

/-- R65: PC, RPC, XPC and WPC resolve to cell 33 like any other name, and give no error. -/
def Obligations.PcNamesResolve : Prop :=
  ∀ s : State,
    exec (.resolve [0x50, 0x43]) s = .next (s.ok (some (.resolved 33 .full64))) ∧
    exec (.resolve [0x52, 0x50, 0x43]) s = .next (s.ok (some (.resolved 33 .full64))) ∧
    exec (.resolve [0x58, 0x50, 0x43]) s = .next (s.ok (some (.resolved 33 .full64))) ∧
    exec (.resolve [0x57, 0x50, 0x43]) s = .next (s.ok (some (.resolved 33 .low32)))

/-! ### Construction and reset -/

/-- R79: after construction every cell and every reset value is 0, the identity is the one given, and the names are the
canonical ones: `R` and the number's digits without leading zeros, ZR, SP, PC; each resolves to its own cell. -/
def Obligations.ConstructionState : Prop :=
  (∀ n, State.reset.x n = 0 ∧ Config.resetValue n = 0 ∧ resolve (cellName n) = some (n, .full64)) ∧
  (∀ n : CellNum, n.val ≤ 30 → (cellName n).head? = some 0x52 ∧ (cellName n).length = if n.val ≤ 9 then 2 else 3) ∧
  cellName 31 = [0x5A, 0x52] ∧ cellName 32 = [0x53, 0x50] ∧ cellName 33 = [0x50, 0x43] ∧
  ∀ name number, RegisterFile.new name number = { coreName := name, coreNumber := number, bank := State.reset }

/-- R80: a hardware reset leaves every cell as construction does and as a RESET_ALL does, from every state. -/
def Obligations.HardwareResetEqualsResetAll : Prop :=
  ∀ (s : State) (rest : List Input), s.inputs = .hardwareReset :: rest →
    ∃ t u, step s = .next t ∧ exec .resetAll { s with inputs := rest } = .next u ∧
      ∀ n, t.x n = State.reset.x n ∧ u.x n = State.reset.x n

/-! ### Ordering -/

/-- R29: a read or a resolution has no side effect on the cells, a resolution reads none, a cell keeps its value until a
request that stores into it, and a request performed twice leaves the state that it left the first time. -/
def Obligations.RepeatingARequestChangesNothing : Prop :=
  (∀ (i : Instr) (s : State), ∃ t, exec i s = .next t ∧ exec i t = .next t ∧
    ∀ n, storedBy n i = none → t.x n = s.x n) ∧
  (∀ (name : List Byte) (s s' : State), ∃ t t', exec (.resolve name) s = .next t ∧ exec (.resolve name) s' = .next t' ∧
    t.response = t'.response)

/-- After any inputs, performed in the order of arrival, a READ of a cell returns the view of the value that the latest of
them to store into the cell stored, or the value before them all (20_memory.md, section 4). Derived: that service goes on
after a refused request is the model's reading, log entry 3, and that the inputs behind a hardware reset stay waiting is the
model's choice, log entry 5. -/
def Obligations.ReadSeesTheLatestWrite : Prop :=
  ∀ (s : State) (earlier : List Input) (n : CellNum) (view : View),
    s.inputs = earlier ++ [.request (encode (.read n.val view))] →
    ∃ v, (State.serve (earlier.length + 1) s).response = some (.ok (some (.rdata v))) ∧
      v.toNat = viewValue view (latestValue n (s.x n) earlier) ∧
      ∀ m, (State.serve (earlier.length + 1) s).x m = latestValue m (s.x m) earlier

/-! ### Invariants -/

/-- Every step keeps the response honest: an error names a bad operand, a read's data is a view of a cell, a resolution is
one of the table. -/
def Obligations.StepKeepsHonestResponse : Prop :=
  ∀ s t : State, HonestResponse s → step s = .next t → HonestResponse t

/-- The response is honest after reset. -/
def Obligations.ResetResponseIsHonest : Prop := HonestResponse State.reset

/-- The mark says whether a run was refused: from a state without it, `k` steps of service end without it exactly when the
run of `k` steps meets no refusal, and then the two end in the same state (60_exceptions.md, section 1). -/
def Obligations.MarkTellsWhetherARunWasRefused : Prop :=
  ∀ (k : Nat) (s : State), s.refused = false →
    ((State.serve k s).refused = false ↔ NothingRefused k s) ∧
    (NothingRefused k s → Host.Core.run Sys2Proof.core k s = .next (State.serve k s))

/-- A run of an executor that sends only admitted headers and numbers in range is safe, whatever the names it sends:
nothing is refused and no response is OutOfRange (60_exceptions.md, section 1; 90_conflicts.md C6). -/
def Obligations.CorrectInputsRunSafely : Prop :=
  ∀ (s : State) (k : Nat), (∀ input ∈ s.inputs, CorrectInput input) → NoOutOfRange s → SafeRun k s

/-! ### Several cores, and the rendering -/

/-- R22: a step of one core's register file changes no other file and no identity, and what it does depends on its own file
alone. -/
def Obligations.CoresShareNothing : Prop :=
  ∀ (p p' : Platform) (k : Fin p.length) (k' : Fin p'.length), p[k].bank = p'[k'].bank →
    (∀ q, p.stepCore k = .next q → q.length = p.length ∧ (∀ j, j ≠ k.val → q[j]? = p[j]?) ∧
      ∃ f q' f', q[k.val]? = some f ∧ f.coreName = p[k].coreName ∧ f.coreNumber = p[k].coreNumber ∧
        p'.stepCore k' = .next q' ∧ q'[k'.val]? = some f' ∧ f.bank = f'.bank)

/-- R77: a file renders as its core's identity and one line per cell in ascending order, 0 to 33, each with the cell's
number, its name and its value as 16 hexadecimal digits, the most significant first. -/
def Obligations.RenderingShowsEveryCellInOrder : Prop :=
  ∀ f : RegisterFile, f.render.coreName = f.coreName ∧ f.render.coreNumber = f.coreNumber ∧
    f.render.lines.length = 34 ∧
    ∀ n : CellNum, ∃ line, f.render.lines[n.val]? = some line ∧ line.number = n ∧ line.name = cellName n ∧
      line.digits.length = 16 ∧ Nat.ofDigits 16 (line.digits.reverse.map BitVec.toNat) = (f.bank.x n).toNat
end

