-- ==== Sys2Proof/Laws/State.lean ====
section
/-! SUPPORT. One lemma per field of the state per update, each true by `rfl`, so that no proof unfolds a record update. -/

namespace Sys2Proof.Machine

section
variable (s : State) (n : CellNum) (v : Word) (u : Half) (d : Option Datum) (e : Error) (rest : List Input) (view : View)

@[simp] theorem State.setX_inputs : (s.setX n v).inputs = s.inputs := rfl
@[simp] theorem State.setX_response : (s.setX n v).response = s.response := rfl
@[simp] theorem State.setX_refused : (s.setX n v).refused = s.refused := rfl

@[simp] theorem State.resetCells_inputs : s.resetCells.inputs = s.inputs := rfl
@[simp] theorem State.resetCells_response : s.resetCells.response = s.response := rfl
@[simp] theorem State.resetCells_refused : s.resetCells.refused = s.refused := rfl

@[simp] theorem State.ok_x : (s.ok d).x n = s.x n := rfl
@[simp] theorem State.ok_inputs : (s.ok d).inputs = s.inputs := rfl
@[simp] theorem State.ok_response : (s.ok d).response = some (.ok d) := rfl
@[simp] theorem State.ok_refused : (s.ok d).refused = s.refused := rfl

@[simp] theorem State.raise_x : (s.raise e).x n = s.x n := rfl
@[simp] theorem State.raise_inputs : (s.raise e).inputs = s.inputs := rfl
@[simp] theorem State.raise_response : (s.raise e).response = some (.error e) := rfl
@[simp] theorem State.raise_refused : (s.raise e).refused = s.refused := rfl

@[simp] theorem State.refuse_x : s.refuse.x n = s.x n := rfl
@[simp] theorem State.refuse_inputs : s.refuse.inputs = s.inputs.tail := rfl
@[simp] theorem State.refuse_response : s.refuse.response = none := rfl
@[simp] theorem State.refuse_refused : s.refuse.refused = true := rfl

@[simp] theorem State.hardwareReset_x : s.hardwareReset.x n = s.resetCells.x n := rfl
@[simp] theorem State.hardwareReset_inputs : s.hardwareReset.inputs = s.inputs := rfl
@[simp] theorem State.hardwareReset_response : s.hardwareReset.response = none := rfl
@[simp] theorem State.hardwareReset_refused : s.hardwareReset.refused = s.refused := rfl

@[simp] theorem State.withInputs_x : ({ s with inputs := rest } : State).x n = s.x n := rfl

@[simp] theorem State.writeView_inputs : (s.writeView n view v).inputs = s.inputs := by cases view <;> rfl
@[simp] theorem State.writeView_response : (s.writeView n view v).response = s.response := by cases view <;> rfl
@[simp] theorem State.writeView_refused : (s.writeView n view v).refused = s.refused := by cases view <;> rfl

@[simp] theorem State.resetCell_inputs : (s.resetCell n).inputs = s.inputs := rfl
@[simp] theorem State.resetCell_response : (s.resetCell n).response = s.response := rfl
@[simp] theorem State.resetCell_refused : (s.resetCell n).refused = s.refused := rfl

end

/-- Two states are equal when their cells and their other three fields are. -/
theorem State.ext_x {s t : State} (hx : ∀ n, s.x n = t.x n) (hi : s.inputs = t.inputs)
    (hr : s.response = t.response) (hf : s.refused = t.refused) : s = t := by
  obtain ⟨cs, is, rs, fs⟩ := s
  obtain ⟨ct, it, rt, ft⟩ := t
  obtain rfl : cs = ct := Vector.ext fun k hk => hx ⟨k, hk⟩
  obtain rfl : is = it := hi
  obtain rfl : rs = rt := hr
  obtain rfl : fs = ft := hf
  rfl

end Sys2Proof.Machine
end

