-- ==== Sys2Proof/Laws/Cells.lean ====
section
/-! SUPPORT. What the cell operations read and store, cell by cell. -/

namespace Sys2Proof.Machine

/-- A truncation to the low half is the remainder by 2^32 (00_scope.md R8). -/
theorem low32_toNat (v : Word) : (low32 v).toNat = v.toNat % 2 ^ 32 := by
  simp [low32]

/-- A zero-extension keeps the value (00_scope.md R8). -/
theorem zext64_toNat (u : Half) : (zext64 u).toNat = u.toNat := by
  have := u.isLt
  simp [zext64]
  omega

/-- `x[n] <- v` stores `v` in cell `n` and nothing elsewhere. -/
theorem State.setX_x (s : State) (n m : CellNum) (v : Word) : (s.setX n v).x m = if m = n then v else s.x m := by
  simp only [State.x, State.setX, Fin.getElem_fin, Vector.getElem_set, Fin.ext_iff, eq_comm]

/-- Every cell holds its reset value after a reset of the file (41_access.md R52). -/
theorem State.resetCells_x (s : State) (n : CellNum) : s.resetCells.x n = Config.resetValue n := by
  simp [State.x, State.resetCells]

/-- Every cell is 0 in the reset state (70_reset_and_hazards.md R79). -/
theorem State.reset_x (n : CellNum) : State.reset.x n = 0 := by
  simp [State.x, State.reset]

/-- What `resetCell` leaves in each cell (40_slicers.md R46). -/
theorem State.resetCell_x (s : State) (n m : CellNum) :
    (s.resetCell n).x m = if m = n then Config.resetValue n else s.x m :=
  s.setX_x n m _

/-- The word that a write through a view stores (41_access.md R50). -/
def stored (view : View) (wdata : Word) : Word :=
  match view with
  | .full64 => wdata
  | .low32 => zext64 (low32 wdata)

/-- What `writeView` leaves in each cell. -/
theorem State.writeView_x (s : State) (n m : CellNum) (view : View) (wdata : Word) :
    (s.writeView n view wdata).x m = if m = n then stored view wdata else s.x m := by
  cases view <;> exact s.setX_x n m _

/-- What `readView` reads is the word that a write of the stored value through the same view would store. -/
theorem State.readView_eq (s : State) (n : CellNum) (view : View) : s.readView n view = stored view (s.x n) := by
  cases view <;> rfl

/-- `stored` in arithmetic: the low view is the remainder by 2^32. -/
theorem stored_toNat (view : View) (wdata : Word) :
    (stored view wdata).toNat = match view with
      | .full64 => wdata.toNat
      | .low32 => wdata.toNat % 2 ^ 32 := by
  cases view
  · rfl
  · simp only [stored, zext64_toNat, low32_toNat]

end Sys2Proof.Machine
end

