-- ==== Sys2Proof/Laws/Decode.lean ====
section
/-! SUPPORT. The header's fields in the masks of 30_encoding.md R38, and the decoder's two branches. -/

namespace Sys2Proof

/-- A header whose reserved bits are not zero is rejected, whatever the rest. -/
theorem decode_of_rsv_ne {r : Request} (h : r.rsv ≠ 0) : decode r = .error .rsvNotZero := if_pos h

/-- A header whose reserved bits are zero selects by `op`. -/
theorem decode_of_rsv_eq {r : Request} (h : r.rsv = 0) : decode r = decodeOp r := if_neg (not_not_intro h)

/-- `op` by its mask. -/
theorem op_toNat_eq_mask (r : Request) : r.op.toNat = (r.hdr &&& 0x07).toNat := by
  have h : ∀ hdr : Byte, (hdr.extractLsb' 0 3).toNat = (hdr &&& 0x07).toNat := by decide
  exact h r.hdr

/-- `rsv` by its mask. -/
theorem rsv_eq_zero_iff_mask (r : Request) : r.rsv = 0 ↔ r.hdr &&& 0xF0 = 0 := by
  have h : ∀ hdr : Byte, hdr.extractLsb' 4 4 = 0 ↔ hdr &&& 0xF0 = 0 := by decide
  exact h r.hdr

/-- The view bit by its mask. -/
theorem viewBit_eq_mask (r : Request) : r.viewBit = decide (r.hdr &&& 0x08 ≠ 0) := by
  have h : ∀ hdr : Byte, hdr.getLsbD 3 = decide (hdr &&& 0x08 ≠ 0) := by decide
  exact h r.hdr

/-- The mask 0xF7 keeps exactly `op` and `rsv`. -/
theorem admissionMask_iff (r r' : Request) : r.hdr &&& 0xF7 = r'.hdr &&& 0xF7 ↔ r.op = r'.op ∧ r.rsv = r'.rsv := by
  have split : ∀ hdr : Byte, hdr &&& 0xF7 = (hdr.extractLsb' 4 4 ++ (0#1 ++ hdr.extractLsb' 0 3)) := by decide
  have back : ∀ hdr : Byte, (hdr &&& 0xF7).extractLsb' 0 3 = hdr.extractLsb' 0 3 ∧
      (hdr &&& 0xF7).extractLsb' 4 4 = hdr.extractLsb' 4 4 := by decide
  constructor
  · intro h
    exact ⟨by rw [Request.op, ← (back r.hdr).1, h, (back r'.hdr).1, Request.op],
      by rw [Request.rsv, ← (back r.hdr).2, h, (back r'.hdr).2, Request.rsv]⟩
  · rintro ⟨ho, hr⟩
    rw [Request.op, Request.op] at ho
    rw [Request.rsv, Request.rsv] at hr
    rw [split, split, ho, hr]

/-- An encoding has zero reserved bits. -/
@[simp] theorem encode_rsv (i : Instr) : (encode i).rsv = 0 := by
  have fixed : ∀ h ∈ ([0x00, 0x08, 0x01, 0x09, 0x02, 0x03, 0x04, 0x05, 0x06] : List Byte), h.extractLsb' 4 4 = 0 := by
    decide
  refine fixed _ ?_
  cases i with
  | read num view => cases view <;> simp [encode, headerWithView]
  | write num view wdata => cases view <;> simp [encode, headerWithView]
  | _ => simp [encode]

/-- A view is what its bit selects. -/
@[simp] theorem View.ofBit_toBit (view : View) : View.ofBit view.toBit = view := by cases view <;> rfl

/-- A bit is what its view encodes. -/
@[simp] theorem View.toBit_ofBit (b : Bool) : (View.ofBit b).toBit = b := by cases b <;> rfl

end Sys2Proof
end

