-- ==== Sys2Proof/Laws/Operands.lean ====
section
/-! SUPPORT. What the two operand forms do: which cell they select, and that they raise their one error otherwise. -/

namespace Sys2Proof.Machine

/-- A number selects the cell of that number and no other. -/
theorem check_val (n : CellNum) : check n.val = some n := by
  have : n.val ≤ 33 := Nat.le_of_lt_succ n.isLt
  simp [check, this]

/-- A number above 33 selects nothing. -/
theorem check_above {num : Nat} (h : 33 < num) : check num = none := by
  simp [check, Nat.not_le.mpr h]

/-- Every number either is the number of a cell or lies above 33. -/
theorem number_cases (num : Nat) : (∃ n : CellNum, num = n.val) ∨ 33 < num :=
  if h : num ≤ 33 then .inl ⟨⟨num, Nat.lt_succ_of_le h⟩, rfl⟩ else .inr (Nat.not_le.mp h)

/-- `withNumber` on the number of a cell. -/
@[simp] theorem State.withNumber_val (s : State) (n : CellNum) (k : CellNum → State) : s.withNumber n.val k = k n := by
  simp [State.withNumber, check_val]

/-- `withNumber` above 33. -/
theorem State.withNumber_above (s : State) {num : Nat} (h : 33 < num) (k : CellNum → State) :
    s.withNumber num k = s.raise (.outOfRange num) := by
  simp [State.withNumber, check_above h]

/-- `withName` on a name that resolves. -/
theorem State.withName_some (s : State) {name : List Byte} {n : CellNum} {view : View}
    (h : resolve name = some (n, view)) (k : CellNum → View → State) : s.withName name k = k n view := by
  simp [State.withName, h]

/-- `withName` on a name that does not resolve. -/
theorem State.withName_none (s : State) {name : List Byte} (h : resolve name = none) (k : CellNum → View → State) :
    s.withName name k = s.raise (.unresolvableName name) := by
  simp [State.withName, h]

/-- `resolve` behind a marker resolves the base, with the marker's view (42_resolve.md R55). -/
theorem resolve_cons_marker {b : Byte} {m : Marker} (h : markerOf b = some m) (base : List Byte) :
    resolve (b :: base) = (baseNumber base).map fun n => (n, viewOfMarker (some m)) := by
  simp only [resolve, splitMarker, h]
  cases baseNumber base <;> rfl

/-- `resolve` without a marker resolves the whole name as the base, with the 64-bit view (42_resolve.md R55). -/
theorem resolve_bare {name : List Byte} (h : ∀ b, name.head? = some b → markerOf b = none) :
    resolve name = (baseNumber name).map fun n => (n, View.full64) := by
  cases name with
  | nil => rfl
  | cons b rest =>
    simp only [resolve, splitMarker, h b rfl]
    cases baseNumber (b :: rest) <;> rfl

/-- One more digit at the end of a numeral: ten times the value before, plus the digit (42_resolve.md R60). -/
theorem numeralValue_snoc (base : List Byte) (b : Byte) :
    numeralValue (base ++ [b]) = 10 * numeralValue base + (b.toNat - 0x30) := by
  simp [numeralValue]

end Sys2Proof.Machine
end

