-- ==== Sys2Proof/Laws/PerInstr.lean ====
section
/-! SUPPORT. The family `EncodedHeader`: the header of every instruction's encoding has the match value of its row in
spec/opcode_table.json under the row's mask 0xF7. -/

namespace Sys2Proof.Laws.EncodedHeader

/-- The row's match value, from spec/opcode_table.json. -/
def tableMatch : Instr → Byte
  | .read _ _ => 0x00
  | .write _ _ _ => 0x01
  | .resolve _ => 0x02
  | .resetReg _ => 0x03
  | .resetAll => 0x04
  | .nread _ => 0x05
  | .nwrite _ _ => 0x06

/-- The encoded header carries the row's match value. -/
def Statement (i : Instr) : Prop := (encode i).hdr &&& 0xF7 = tableMatch i

theorem read (num : Nat) (view : View) : Statement (.read num view) :=
  match view with
  | .full64 => show (0x00 : Byte) &&& 0xF7 = 0x00 from by decide
  | .low32 => show ((0x00 : Byte) ||| 0x08) &&& 0xF7 = 0x00 from by decide

theorem write (num : Nat) (view : View) (wdata : Word) : Statement (.write num view wdata) :=
  match view with
  | .full64 => show (0x01 : Byte) &&& 0xF7 = 0x01 from by decide
  | .low32 => show ((0x01 : Byte) ||| 0x08) &&& 0xF7 = 0x01 from by decide

theorem resolve (name : List Byte) : Statement (.resolve name) :=
  show (0x02 : Byte) &&& 0xF7 = 0x02 from by decide

theorem resetReg (num : Nat) : Statement (.resetReg num) :=
  show (0x03 : Byte) &&& 0xF7 = 0x03 from by decide

theorem resetAll : Statement .resetAll :=
  show (0x04 : Byte) &&& 0xF7 = 0x04 from by decide

theorem nread (name : List Byte) : Statement (.nread name) :=
  show (0x05 : Byte) &&& 0xF7 = 0x05 from by decide

theorem nwrite (name : List Byte) (wdata : Word) : Statement (.nwrite name wdata) :=
  show (0x06 : Byte) &&& 0xF7 = 0x06 from by decide

end Sys2Proof.Laws.EncodedHeader
end

