-- ==== Sys2Proof/Laws/Platform.lean ====
section
/-! SUPPORT. What stepping one core's register file does to the platform, and the digits that a value renders as. -/

namespace Sys2Proof.Machine

/-- Everything `stepCore` can do when it goes on: step the bank of core `k`, and put the result back under the same
identity. -/
theorem Platform.stepCore_next {p q : Platform} {k : Fin p.length} (h : p.stepCore k = .next q) :
    ∃ t, step p[k].bank = .next t ∧ q = p.set k { p[k] with bank := t } := by
  unfold Platform.stepCore at h
  cases hs : step p[k].bank with
  | next t =>
    simp only [hs, Host.Outcome.next.injEq] at h
    exact ⟨t, rfl, h.symm⟩
  | fault f => nomatch f
  | refused why =>
    simp only [hs] at h
    nomatch h

/-- A value has 16 digits. -/
theorem hexDigits_length (v : Word) : (hexDigits v).length = 16 := by
  simp [hexDigits]

/-- Digit `i` from the left has the weight 16^(15 - i). -/
theorem hexDigits_getElem (v : Word) (i : Nat) (h : i < (hexDigits v).length) :
    ((hexDigits v)[i]).toNat = v.toNat / 2 ^ (60 - 4 * i) % 16 := by
  simp [hexDigits, Nat.shiftRight_eq_div_pow]

end Sys2Proof.Machine
end

