-- ==== Sys2Proof/Laws/Step.lean ====
section
/-! SUPPORT. What one step can do, said once: the cases of `exec`, of `step` and of `afterStep`. -/

namespace Sys2Proof.Machine

/-- Everything an admitted request can do to the state: answer without storing, store through a view into one cell, reset
one cell, reset the file, or raise one of the two errors. -/
theorem exec_cases (i : Instr) (s : State) : ∃ t, exec i s = .next t ∧
    ((∃ num, 33 < num ∧ ((∃ view, i = .read num view) ∨ (∃ view wdata, i = .write num view wdata) ∨ i = .resetReg num) ∧
        t = s.raise (.outOfRange num)) ∨
     (∃ name, resolve name = none ∧ (i = .resolve name ∨ i = .nread name ∨ ∃ wdata, i = .nwrite name wdata) ∧
        t = s.raise (.unresolvableName name)) ∨
     (∃ n view, (i = .read n.val view ∨ ∃ name, i = .nread name ∧ resolve name = some (n, view)) ∧
        t = s.ok (some (.rdata (s.readView n view)))) ∨
     (∃ n view name, i = .resolve name ∧ resolve name = some (n, view) ∧ t = s.ok (some (.resolved n view))) ∨
     (∃ n view wdata, (i = .write n.val view wdata ∨ ∃ name, i = .nwrite name wdata ∧ resolve name = some (n, view)) ∧
        t = (s.writeView n view wdata).ok none) ∨
     (∃ n : CellNum, i = .resetReg n.val ∧ t = (s.resetCell n).ok none) ∨
     (i = .resetAll ∧ t = s.resetCells.ok none)) := by
  cases i with
  | read num view =>
    refine ⟨_, rfl, ?_⟩
    rcases number_cases num with ⟨n, rfl⟩ | h
    · exact .inr (.inr (.inl ⟨n, view, .inl rfl, s.withNumber_val n _⟩))
    · exact .inl ⟨num, h, .inl ⟨view, rfl⟩, s.withNumber_above h _⟩
  | write num view wdata =>
    refine ⟨_, rfl, ?_⟩
    rcases number_cases num with ⟨n, rfl⟩ | h
    · exact .inr (.inr (.inr (.inr (.inl ⟨n, view, wdata, .inl rfl, s.withNumber_val n _⟩))))
    · exact .inl ⟨num, h, .inr (.inl ⟨view, wdata, rfl⟩), s.withNumber_above h _⟩
  | resetReg num =>
    refine ⟨_, rfl, ?_⟩
    rcases number_cases num with ⟨n, rfl⟩ | h
    · exact .inr (.inr (.inr (.inr (.inr (.inl ⟨n, rfl, s.withNumber_val n _⟩)))))
    · exact .inl ⟨num, h, .inr (.inr rfl), s.withNumber_above h _⟩
  | resetAll => exact ⟨_, rfl, .inr (.inr (.inr (.inr (.inr (.inr ⟨rfl, rfl⟩)))))⟩
  | resolve name =>
    refine ⟨_, rfl, ?_⟩
    rcases h : Machine.resolve name with _ | ⟨n, view⟩
    · exact .inr (.inl ⟨name, h, .inl rfl, s.withName_none h _⟩)
    · exact .inr (.inr (.inr (.inl ⟨n, view, name, rfl, h, s.withName_some h _⟩)))
  | nread name =>
    refine ⟨_, rfl, ?_⟩
    rcases h : Machine.resolve name with _ | ⟨n, view⟩
    · exact .inr (.inl ⟨name, h, .inr (.inl rfl), s.withName_none h _⟩)
    · exact .inr (.inr (.inl ⟨n, view, .inr ⟨name, rfl, h⟩, s.withName_some h _⟩))
  | nwrite name wdata =>
    refine ⟨_, rfl, ?_⟩
    rcases h : Machine.resolve name with _ | ⟨n, view⟩
    · exact .inr (.inl ⟨name, h, .inr (.inr ⟨wdata, rfl⟩), s.withName_none h _⟩)
    · exact .inr (.inr (.inr (.inr (.inl ⟨n, view, wdata, .inr ⟨name, rfl, h⟩, s.withName_some h _⟩))))

/-- An admitted request leaves the waiting inputs and the refusal mark alone. -/
theorem exec_rest {i : Instr} {s t : State} (h : exec i s = .next t) : t.inputs = s.inputs ∧ t.refused = s.refused := by
  obtain ⟨t', h', hc⟩ := exec_cases i s
  obtain rfl : t' = t := by simpa [h'] using h
  rcases hc with ⟨_, _, _, rfl⟩ | ⟨_, _, _, rfl⟩ | ⟨_, _, _, rfl⟩ | ⟨_, _, _, _, _, rfl⟩ | ⟨_, _, _, _, rfl⟩ | ⟨_, _, rfl⟩ |
    ⟨_, rfl⟩ <;> simp

/-- Everything a step can do, by its oldest input. -/
theorem step_cases (s : State) :
    (s.inputs = [] ∧ step s = .next s) ∨
    (∃ rest, s.inputs = .hardwareReset :: rest ∧ step s = .next ({ s with inputs := rest } : State).hardwareReset) ∨
    (∃ r rest i, s.inputs = .request r :: rest ∧ decode r = .ok i ∧ step s = exec i { s with inputs := rest }) ∨
    (∃ r rest why, s.inputs = .request r :: rest ∧ decode r = .error why ∧
      step s = .refused (.reservedEncoding why r.hdr)) := by
  unfold step State.takeInput
  rcases hin : s.inputs with _ | ⟨_ | _, rest⟩
  · exact .inl ⟨rfl, rfl⟩
  · rename_i r
    rcases hd : decode r with why | i
    · exact .inr (.inr (.inr ⟨r, rest, why, rfl, hd, by simp [stepRequest, hd]⟩))
    · exact .inr (.inr (.inl ⟨r, rest, i, rfl, hd, by simp [stepRequest, hd]⟩))
  · exact .inr (.inl ⟨rest, rfl, rfl⟩)

/-- The state in service after a step that goes on. -/
theorem State.afterStep_of_next {s t : State} (h : step s = .next t) : s.afterStep = t := by
  simp [State.afterStep, h]

/-- The state in service after a refusal. -/
theorem State.afterStep_of_refused {s : State} {why : Refusal} (h : step s = .refused why) : s.afterStep = s.refuse := by
  simp [State.afterStep, h]

@[simp] theorem State.serve_zero (s : State) : State.serve 0 s = s := rfl
@[simp] theorem State.serve_succ (k : Nat) (s : State) : State.serve (k + 1) s = State.serve k s.afterStep := rfl

end Sys2Proof.Machine
end

