-- ==== Sys2Proof/Laws/Run.lean ====
section
/-! SUPPORT. The host's run, one step at a time: for any machine, and for `core`. -/

namespace Sys2Proof.Machine

section
variable {M : Host.Core} {a b : M.State}

/-- A run whose first step goes on. -/
theorem coreRun_succ_of_next (h : M.step a = .next b) (k : Nat) : M.run (k + 1) a = M.run k b := by
  simp only [Host.Core.run, h]

/-- A run whose first step is refused. -/
theorem coreRun_succ_of_refused {why : M.Refusal} (h : M.step a = .refused why) (k : Nat) :
    M.run (k + 1) a = .refused why := by
  simp only [Host.Core.run, h]

end

/-- A run of no steps. -/
theorem run_zero (s : State) : Host.Core.run Sys2Proof.core 0 s = .next s := rfl

/-- A run of `core` whose first step goes on. -/
theorem run_succ_of_next {s t : State} (h : step s = .next t) (k : Nat) :
    Host.Core.run Sys2Proof.core (k + 1) s = Host.Core.run Sys2Proof.core k t :=
  coreRun_succ_of_next (M := Sys2Proof.core) h k

/-- A run of `core` whose first step is refused. -/
theorem run_succ_of_refused {s : State} {why : Refusal} (h : step s = .refused why) (k : Nat) :
    Host.Core.run Sys2Proof.core (k + 1) s = .refused why :=
  coreRun_succ_of_refused (M := Sys2Proof.core) h k

end Sys2Proof.Machine
end

