-- ==== Sys2Proof/Tests/Slice0.lean ====
section
/-! SUPPORT. Tests whose expected results are vectors of spec/95_test_vectors.md or hand calculation from the rules, and for
every obligation with hypotheses a witness that meets them. Names are written in hexadecimal ASCII as there. -/

namespace Sys2Proof.Tests

open Sys2Proof.Machine Sys2Proof.Safety

/-- Reset with one cell holding a value. -/
def bank (n : CellNum) (v : Word) : State := State.reset.setX n v

/-- A state whose one waiting input is a request. -/
def asked (s : State) (r : Request) : State := { s with inputs := [.request r] }

/-- The response and one cell after one step, if the step goes on. -/
def after (s : State) (n : CellNum) : Option (Option Response × Word) :=
  match step s with
  | .next t => some (t.response, t.x n)
  | .fault _ => none
  | .refused _ => none

/-! ### Well-formedness: a number of 33 bits is no operand (30_encoding.md R33) -/

theorem smoke_read_number_too_wide : (Instr.read (2 ^ 32) .full64).wf = false := by decide
theorem smoke_write_number_too_wide : (Instr.write (2 ^ 32) .low32 0).wf = false := by decide
theorem smoke_resetReg_number_too_wide : (Instr.resetReg (2 ^ 32)).wf = false := by decide
theorem smoke_widest_number_fits : (Instr.read (2 ^ 32 - 1) .full64).wf = true := by decide

/-! ### Decoding: headers from the encodings of spec/opcode_table.json, bit by bit -/

theorem test_decode_read_x : decodeTableWord 8 0b00000000 = some (.read 0 .full64) := by decide
theorem test_decode_read_w : decodeTableWord 8 0b00001000 = some (.read 0 .low32) := by decide
theorem test_decode_write : decodeTableWord 8 0b00001001 = some (.write 0 .low32 0) := by decide
theorem test_decode_resolve : decodeTableWord 8 0b00000010 = some (.resolve []) := by decide
theorem test_decode_resetReg : decodeTableWord 8 0b00000011 = some (.resetReg 0) := by decide
theorem test_decode_resetAll : decodeTableWord 8 0b00001100 = some .resetAll := by decide
theorem test_decode_nread : decodeTableWord 8 0b00000101 = some (.nread []) := by decide
theorem test_decode_nwrite : decodeTableWord 8 0b00001110 = some (.nwrite [] 0) := by decide
/-- Vectors X7, X8, X9 and X10: reserved headers are refused, whatever else they hold. -/
theorem test_decode_reserved : [0x07, 0x0F, 0x10, 0x80].map (decodeTableWord 8) = [none, none, none, none] := by decide
/-- Every operand field in its place, and in particular the first name byte lowest: NWRITE "W7". -/
theorem test_decode_table_word_operands :
    decodeTableWord 120 (0x06 + 0xAAAAAAAA80000000 * 2 ^ 40 + 0x57 * 2 ^ 104 + 0x37 * 2 ^ 112)
      = some (.nwrite [0x57, 0x37] 0xAAAAAAAA80000000) := by decide

/-! ### One step per test: the vectors A, N and X -/

/-- A3. -/
theorem test_read_low_view :
    after (asked (bank 2 0xDEADBEEF00000001) ⟨0x08, 2, 0, []⟩) 2
      = some (some (.ok (some (.rdata 1))), 0xDEADBEEF00000001) := by decide
/-- X3. -/
theorem test_read_does_not_wrap :
    after (asked State.reset ⟨0x08, 0xFFFFFFFF, 0, []⟩) 33 = some (some (.error (.outOfRange 4294967295)), 0) := by decide
/-- A5. -/
theorem test_write_low_view_truncates :
    after (asked (bank 5 0xFFFFFFFFFFFFFFFF) ⟨0x09, 5, 0x123456789, []⟩) 5 = some (some (.ok none), 0x23456789) := by
  decide
/-- A6: ZR keeps what is written. -/
theorem test_write_zr : after (asked State.reset ⟨0x01, 31, 0xCAFEF00D, []⟩) 31 = some (some (.ok none), 0xCAFEF00D) := by
  decide
/-- A10. -/
theorem test_resetReg_clears : after (asked (bank 9 1) ⟨0x03, 9, 0, []⟩) 9 = some (some (.ok none), 0) := by decide
/-- A10: the neighbour stays. -/
theorem test_resetReg_keeps_others : after (asked (bank 10 2) ⟨0x03, 9, 0, []⟩) 10 = some (some (.ok none), 2) := by decide
/-- X13. -/
theorem test_resetAll_ignores_number : after (asked (bank 33 1) ⟨0x04, 99, 0, []⟩) 33 = some (some (.ok none), 0) := by
  decide
/-- X11. -/
theorem test_resolve_ignores_view_bit :
    after (asked State.reset ⟨0x0A, 0, 0, [0x58, 0x35]⟩) 5 = some (some (.ok (some (.resolved 5 .full64))), 0) := by decide
/-- N5. -/
theorem test_nread_wzr :
    after (asked (bank 31 0xFFFFFFFF00000001) ⟨0x05, 0, 0, [0x57, 0x5A, 0x52]⟩) 31
      = some (some (.ok (some (.rdata 1))), 0xFFFFFFFF00000001) := by decide
/-- X12. -/
theorem test_nread_view_is_the_names :
    after (asked (bank 5 0x100000002) ⟨0x0D, 0, 0, [0x58, 0x35]⟩) 5
      = some (some (.ok (some (.rdata 0x100000002))), 0x100000002) := by decide
/-- N3. -/
theorem test_nwrite_low_view :
    after (asked (bank 7 0xFFFFFFFFFFFFFFFF) ⟨0x06, 0, 0xAAAAAAAA80000000, [0x57, 0x37]⟩) 7
      = some (some (.ok none), 0x80000000) := by decide
/-- N6. -/
theorem test_nwrite_r31_fails :
    after (asked State.reset ⟨0x06, 0, 5, [0x52, 0x33, 0x31]⟩) 31
      = some (some (.error (.unresolvableName [0x52, 0x33, 0x31])), 0) := by decide

/-- Vectors V1 to V24. -/
theorem test_names_that_resolve :
    [[0x58, 0x35], [0x57, 0x35], [0x52, 0x30], [0x52, 0x33, 0x30], [0x57, 0x33, 0x30], [0x57, 0x30], [0x35], [0x30],
     [0x30, 0x35], [0x58, 0x30, 0x35], [0x57, 0x30, 0x33, 0x30], [0x58, 0x30, 0x30], [0x5A, 0x52], [0x58, 0x5A, 0x52],
     [0x52, 0x5A, 0x52], [0x57, 0x5A, 0x52], [0x53, 0x50], [0x58, 0x53, 0x50], [0x52, 0x53, 0x50], [0x57, 0x53, 0x50],
     [0x50, 0x43], [0x58, 0x50, 0x43], [0x52, 0x50, 0x43], [0x57, 0x50, 0x43]].map resolve
    = [(5, .full64), (5, .low32), (0, .full64), (30, .full64), (30, .low32), (0, .low32), (5, .full64), (0, .full64),
       (5, .full64), (5, .full64), (30, .low32), (0, .full64), (31, .full64), (31, .full64), (31, .full64), (31, .low32),
       (32, .full64), (32, .full64), (32, .full64), (32, .low32), (33, .full64), (33, .full64), (33, .full64),
       (33, .low32)].map some := by decide

/-- Vectors V25 to V50. -/
theorem test_names_that_do_not :
    ([[0x52, 0x33, 0x31], [0x58, 0x33, 0x31], [0x57, 0x33, 0x31], [0x33, 0x31], [0x51, 0x39, 0x39], [], [0x58], [0x57],
      [0x52], [0x78, 0x35], [0x58, 0x2B, 0x35], [0x58, 0x2D, 0x31], [0x58, 0x20, 0x35], [0x20, 0x58, 0x35],
      [0x58, 0x35, 0x20], [0x58, 0x57, 0x35], [0x57, 0x58, 0x35], [0x52, 0x52, 0x35], [0x57, 0x57, 0x35],
      [0x58, 0x53, 0x50, 0x58], [0x5A, 0x52, 0x58], [0x53, 0x50, 0x58], [0x5A, 0x52, 0x35], [0x53],
      [0x58, 0x30, 0x78, 0x35], 0x58 :: List.replicate 20 0x39] : List (List Byte)).all (fun n => (resolve n).isNone)
      = true := by decide

/-- R12's names, and R77's digits of the value of vector A4. -/
theorem test_rendered_cell :
    (bank 30 0xDEADBEEF00000001).renderCell 30
      = ⟨30, [0x52, 0x33, 0x30], [0xD, 0xE, 0xA, 0xD, 0xB, 0xE, 0xE, 0xF, 0, 0, 0, 0, 0, 0, 0, 1]⟩ := by decide

/-- Placing a table word makes the next step run it: the host's own use, READ on reset. -/
theorem test_withFetchWord : after (State.reset.withFetchWord 8 0x00) 0 = some (some (.ok (some (.rdata 0))), 0) := by
  decide

/-! ### Witnesses: a concrete case that meets the hypotheses of each obligation, at the ends of each range -/

theorem witness_DecodeInvertsEncode :
    (Instr.write (2 ^ 32 - 1) .low32 0xFFFFFFFFFFFFFFFF).wf = true ∧ (Instr.read 0 .full64).wf = true := by decide

theorem witness_EncodeInvertsDecodeOnUsedFields :
    decode ⟨0x0A, 0xFFFFFFFF, 1, [0xFF]⟩ = .ok (.resolve [0xFF]) := by decide

theorem witness_UnusedFieldsAreIgnored :
    AgreeOnUsedFields ⟨0x0A, 7, 8, [0x35]⟩ ⟨0x02, 0, 0, [0x35]⟩ ∧ ¬ ReservedHeader 0x0A := by
  unfold AgreeOnUsedFields ReservedHeader
  decide

theorem witness_StepPerformsDecodedRequest :
    (asked State.reset ⟨0x00, 33, 0, []⟩).inputs = .request ⟨0x00, 33, 0, []⟩ :: [] ∧
      decode ⟨0x00, 33, 0, []⟩ = .ok (.read 33 .full64) ∧ decodeTableWord 8 0x06 = some (.nwrite [] 0) := by decide

theorem witness_EachStepTakesTheOldestInput :
    State.reset.inputs = [] ∧ (asked State.reset ⟨0x07, 0, 0, []⟩).inputs = .request ⟨0x07, 0, 0, []⟩ :: [] := by decide

/-- Each of the four outcomes occurs (vectors A1, X1, N6, X9 and X7). -/
theorem witness_RequestEndsInOneOfFourOutcomes :
    after (asked State.reset ⟨0x00, 0, 0, []⟩) 0 = some (some (.ok (some (.rdata 0))), 0) ∧
    after (asked State.reset ⟨0x00, 34, 0, []⟩) 0 = some (some (.error (.outOfRange 34)), 0) ∧
    after (asked State.reset ⟨0x02, 0, 0, []⟩) 0 = some (some (.error (.unresolvableName [])), 0) ∧
    after (asked State.reset ⟨0x10, 0, 0, []⟩) 0 = none ∧ after (asked State.reset ⟨0x07, 0, 0, []⟩) 0 = none := by decide

theorem witness_RefusalLeavesOnlyTheMark :
    (asked State.reset ⟨0x07, 34, 0, []⟩).inputs = [.request ⟨0x07, 34, 0, []⟩] ∧
      ReservedHeader 0x07 ∧ ReservedHeader 0x80 ∧ ¬ ReservedHeader 0x06 := by
  unfold ReservedHeader
  decide

theorem witness_ErrorsChangeNoCell :
    execRead 34 .full64 (bank 33 1) = .next ((bank 33 1).raise (.outOfRange 34)) ∧
      execNread [] (bank 33 1) = .next ((bank 33 1).raise (.unresolvableName [])) := ⟨rfl, rfl⟩

theorem witness_OnlyWritesAndResetsChangeCells :
    execWrite 33 .full64 1 State.reset = .next ((State.reset.writeView 33 .full64 1).ok none) ∧
      ((State.reset.writeView 33 .full64 1).ok none).x 33 ≠ State.reset.x 33 ∧
      step (asked State.reset ⟨0x0F, 0, 0, []⟩) = .refused (.reservedEncoding .opReserved 0x0F) :=
  ⟨rfl, by decide, rfl⟩

theorem witness_DataItemOfEachOperation :
    execRead 33 .low32 State.reset = .next (State.reset.ok (some (.rdata 0))) := rfl

theorem witness_ByNumber : (0x08 : Byte) &&& 0xF7 = 0x00 ∧ (0x09 : Byte) &&& 0xF7 = 0x01 ∧ (0x0B : Byte) &&& 0xF7 = 0x03 ∧
    (0x0C : Byte) &&& 0xF7 = 0x04 ∧ (33 : Nat) = (33 : CellNum).val ∧ (0 : Nat) = (0 : CellNum).val ∧ (33 : Nat) < 34 := by
  decide

/-- A numeral is not empty. -/
theorem numeralOf_ne_nil {base : List Byte} {v : Nat} (h : NumeralOf base v) : base ≠ [] := by
  cases h <;> simp

/-- The empty name is not in the table (V30). -/
theorem empty_not_resolvable (n : CellNum) (view : View) : ¬ ResolvableName [] n view := by
  intro h
  cases h with
  | bare _ _ hb =>
    cases hb with
    | numeral _ _ hn _ => exact numeralOf_ne_nil hn rfl

theorem witness_ByName : (0x0A : Byte) &&& 0xF7 = 0x02 ∧ (0x0D : Byte) &&& 0xF7 = 0x05 ∧ (0x0E : Byte) &&& 0xF7 = 0x06 ∧
    ResolvableName [0x57, 0x32] 2 .low32 ∧ ResolvableName [0x50, 0x43] 33 .full64 ∧
    ∀ n view, ¬ ResolvableName [] n view :=
  ⟨by decide, by decide, by decide, .withW _ _ (.numeral _ _ (.digit 2) (by decide)), .bare _ _ .pc,
    empty_not_resolvable⟩

theorem witness_SpecialCellsAreOrdinary :
    step (asked (bank 33 1) ⟨0x03, 33, 0, []⟩) = .next (((bank 33 1).resetCell 33).ok none) ∧
      (((bank 33 1).resetCell 33).ok none).x 33 ≠ (asked (bank 33 1) ⟨0x03, 33, 0, []⟩).x 33 := ⟨rfl, by decide⟩

theorem witness_OnlyListedBytesResolve : resolve [0x58, 0x30, 0x35] = some (5, .full64) := by decide

theorem witness_AtMostOneMarker :
    (0x57 : Byte) ∈ markerBytes ∧ ∀ b, ([0x33, 0x30] : List Byte).head? = some b → b ∉ markerBytes := by decide

theorem witness_ViewComesFromTheMarkerAlone :
    resolve [0x57, 0x53, 0x50] = some (32, .low32) ∧ resolve [0x52, 0x53, 0x50] = some (32, .full64) ∧
      ([0x52, 0x53, 0x50] : List Byte).head? ≠ some 0x57 := by decide

/-- Both outcomes of the bound: 30 with leading zeros resolves, 31 does not. -/
theorem witness_NumeralsResolveByExactValue :
    ([0x57] : List Byte) ∈ [] :: markerBytes.map (fun m => [m]) ∧ ([0, 3, 0] : List (Fin 10)) ≠ [] ∧
      resolve ([0x57] ++ ([0, 3, 0] : List (Fin 10)).map digitByte) = some (30, .low32) ∧
      resolve ([0x57] ++ ([0, 3, 1] : List (Fin 10)).map digitByte) = none := by decide

theorem witness_ConstructionState : (30 : CellNum).val ≤ 30 ∧ (9 : CellNum).val ≤ 9 ∧ ¬ (10 : CellNum).val ≤ 9 := by decide

theorem witness_HardwareResetEqualsResetAll :
    ({ bank 33 1 with inputs := [.hardwareReset] } : State).inputs = .hardwareReset :: [] := by decide

theorem witness_RepeatingARequestChangesNothing :
    storedBy 33 (.read 33 .full64) = none ∧ storedBy 33 (.write 32 .full64 1) = none ∧ storedBy 33 (.nwrite [] 1) = none := by
  decide

/-- Two writes of cell 0, a refused request and a read: the read sees the later write through the low view. -/
theorem witness_ReadSeesTheLatestWrite :
    latestValue 0 7 [.request ⟨0x01, 0, 1, []⟩, .request ⟨0x09, 0, 0x100000002, []⟩, .request ⟨0x07, 0, 3, []⟩] = 2 ∧
      latestValue 0 7 [] = 7 ∧
      ({ State.reset with inputs := [.hardwareReset, .request (encode (.read 33 .low32))] } : State).inputs =
        [.hardwareReset] ++ [.request (encode (.read (33 : CellNum).val .low32))] := by decide

theorem witness_StepKeepsHonestResponse :
    HonestResponse (State.reset.raise (.outOfRange 34)) ∧
      step (asked (State.reset.raise (.outOfRange 34)) ⟨0x00, 0, 0, []⟩) = .next (State.reset.ok (some (.rdata 0))) :=
  ⟨show 33 < 34 by decide, rfl⟩

theorem witness_MarkTellsWhetherARunWasRefused :
    State.reset.refused = false ∧ NothingRefused 1 (asked State.reset ⟨0x04, 0, 0, []⟩) ∧
      (State.serve 1 (asked State.reset ⟨0x07, 0, 0, []⟩)).refused = true :=
  ⟨rfl, ⟨_, run_succ_of_next (s := asked State.reset ⟨0x04, 0, 0, []⟩) rfl 0⟩, rfl⟩

theorem witness_CorrectInputsRunSafely :
    (∀ input ∈ [Input.hardwareReset, .request ⟨0x00, 33, 0, []⟩, .request ⟨0x05, 34, 0, [0x35]⟩], CorrectInput input) ∧
      NoOutOfRange State.reset := by
  refine ⟨?_, fun num => by simp [State.reset]⟩
  intro input h
  simp only [List.mem_cons, List.not_mem_nil, or_false] at h
  rcases h with rfl | rfl | rfl
  · trivial
  · exact ⟨by unfold ReservedHeader; decide, by decide⟩
  · exact ⟨by unfold ReservedHeader; decide, by decide⟩

/-- Two cores with different waiting inputs: the first can be stepped, and so can a lone core with the same file. -/
theorem witness_CoresShareNothing :
    (Platform.stepCore [⟨[], 0, asked State.reset ⟨0x01, 0, 5, []⟩⟩, ⟨[], 1, State.reset⟩] ⟨0, by decide⟩ =
      .next [⟨[], 0, (State.reset.writeView 0 .full64 5).ok none⟩, ⟨[], 1, State.reset⟩]) ∧
    (RegisterFile.bank ⟨[], 0, asked State.reset ⟨0x01, 0, 5, []⟩⟩ =
      RegisterFile.bank ⟨[0x43], 9, asked State.reset ⟨0x01, 0, 5, []⟩⟩) := ⟨rfl, rfl⟩

end Sys2Proof.Tests
end

section
/-! SUPPORT. Independence of the register files of different cores (10_state.md R22, 60_exceptions.md R76). -/

namespace Sys2Proof.Machine

/-- The converse of `Platform.stepCore_next`: whether and how core `k` steps is read off its own bank alone. -/
theorem Platform.stepCore_of_step {p : Platform} {k : Fin p.length} {t : State} (h : step p[k].bank = .next t) :
    p.stepCore k = .next (p.set k { p[k] with bank := t }) := by
  simp only [Platform.stepCore, h]

/-- Settles O41: both platforms put the result of one and the same `step` back under the stepped core's identity. -/
theorem coresShareNothing : Obligations.CoresShareNothing := by
  intro p p' k k' hbank q hq
  obtain ⟨t, ht, rfl⟩ := Platform.stepCore_next hq
  have ht' : p'.stepCore k' = .next (p'.set k' { p'[k'] with bank := t }) := Platform.stepCore_of_step (hbank ▸ ht)
  exact ⟨List.length_set, fun j hj => List.getElem?_set_ne hj.symm,
    _, _, _, List.getElem?_set_self k.isLt, rfl, rfl, ht', List.getElem?_set_self k'.isLt, rfl⟩

end Sys2Proof.Machine
end

section
/-! SUPPORT. Which cell a request reads, what it stores into each cell, and that repeating it changes nothing more
(20_memory.md R29). -/

namespace Sys2Proof.Machine

open Sys2Proof.Safety

/-- The word a write through a view stores, in the terms of `storedBy`. -/
theorem ofNat_viewValue (view : View) (wdata : Word) : BitVec.ofNat 64 (viewValue view wdata) = stored view wdata := by
  cases view with
  | full64 => exact BitVec.ofNat_toNat ..
  | low32 => exact (congrArg _ (low32_toNat wdata).symm).trans (BitVec.ofNat_toNat ..)

/-- The frame of every admitted request: a cell holds what the request stores into it, or else its value before. -/
theorem exec_x {i : Instr} {s t : State} (h : exec i s = .next t) (n : CellNum) :
    t.x n = (storedBy n i).getD (s.x n) := by
  obtain ⟨t', h', hc⟩ := exec_cases i s
  obtain rfl : t' = t := by simpa [h'] using h
  rcases hc with ⟨num, hnum, hi, rfl⟩ | ⟨name, hname, hi, rfl⟩ | ⟨m, view, hi, rfl⟩ | ⟨_, _, _, rfl, _, rfl⟩ |
    ⟨m, view, wdata, hi, rfl⟩ | ⟨m, rfl, rfl⟩ | ⟨rfl, rfl⟩
  · have hne : num ≠ n.val := by omega
    rcases hi with ⟨_, rfl⟩ | ⟨_, _, rfl⟩ | rfl <;> simp [storedBy, hne]
  · rcases hi with rfl | rfl | ⟨_, rfl⟩ <;> simp [storedBy, hname]
  · rcases hi with rfl | ⟨_, rfl, _⟩ <;> simp [storedBy]
  · simp [storedBy]
  · have hstored : (s.writeView m view wdata).x n = (if m = n then some (stored view wdata) else none).getD (s.x n) := by
      rcases eq_or_ne n m with rfl | hne
      · simp [State.writeView_x]
      · simp [State.writeView_x, hne, hne.symm]
    rcases hi with rfl | ⟨_, rfl, hname⟩
    · simpa [storedBy, ofNat_viewValue, Fin.val_inj] using hstored
    · simpa [storedBy, ofNat_viewValue, hname] using hstored
  · rcases eq_or_ne n m with rfl | hne
    · simp [storedBy, State.resetCell_x, Config.resetValue]
    · simp [storedBy, State.resetCell_x, Fin.val_inj, hne, hne.symm]
  · simp [storedBy, State.resetCells_x, Config.resetValue]

/-- The cell whose value a request returns, if it returns one (41_access.md R49, 42_resolve.md R63). -/
def cellRead : Instr → Option CellNum
  | .read num _ => check num
  | .nread name => (resolve name).map Prod.fst
  | .write _ _ _ | .resolve _ | .resetReg _ | .resetAll | .nwrite _ _ => none

/-- A request that reads a cell stores into none. -/
theorem storedBy_eq_none_of_cellRead {i : Instr} {m : CellNum} (h : cellRead i = some m) (n : CellNum) :
    storedBy n i = none := by
  cases i with
  | read | nread => rfl
  | write | resolve | resetReg | resetAll | nwrite => cases h

/-- Both answers of a number operand have the same response when they have it on the cell that the number selects. -/
theorem State.withNumber_response_congr {s s' : State} {num : Nat} {k k' : CellNum → State}
    (hk : ∀ n, check num = some n → (k n).response = (k' n).response) :
    (s.withNumber num k).response = (s'.withNumber num k').response := by
  unfold State.withNumber
  cases hn : check num with
  | none => rfl
  | some n => exact hk n hn

/-- Both answers of a name operand have the same response when they have it on the cell that the name selects. -/
theorem State.withName_response_congr {s s' : State} {name : List Byte} {k k' : CellNum → View → State}
    (hk : ∀ n view, resolve name = some (n, view) → (k n view).response = (k' n view).response) :
    (s.withName name k).response = (s'.withName name k').response := by
  unfold State.withName
  cases hname : resolve name with
  | none => rfl
  | some target => exact hk _ _ hname

/-- The response of a request depends on nothing of the state but the cell it reads. -/
theorem exec_response_congr {i : Instr} {s s' t t' : State} (h : exec i s = .next t) (h' : exec i s' = .next t')
    (hx : ∀ n, cellRead i = some n → s.x n = s'.x n) : t.response = t'.response := by
  cases i with
  | read num view =>
    cases h; cases h'
    exact State.withNumber_response_congr fun n hn => by simp [State.readView_eq, hx n hn]
  | nread name =>
    cases h; cases h'
    exact State.withName_response_congr fun n view hname => by simp [State.readView_eq, hx n (by simp [cellRead, hname])]
  | write | resetReg =>
    cases h; cases h'
    exact State.withNumber_response_congr fun _ _ => rfl
  | resolve | nwrite =>
    cases h; cases h'
    exact State.withName_response_congr fun _ _ _ => rfl
  | resetAll => cases h; cases h'; rfl

/-- A request performed again leaves exactly the state it left: it stores the same words, and the cell it reads is one it
did not change. -/
theorem exec_repeat {i : Instr} {s t : State} (h : exec i s = .next t) : exec i t = .next t := by
  obtain ⟨u, hu, -⟩ := exec_cases i t
  obtain ⟨hinputs, hrefused⟩ := exec_rest hu
  have hcells (n : CellNum) : u.x n = t.x n := by
    rw [exec_x hu, exec_x h]
    cases storedBy n i <;> rfl
  have hresponse : u.response = t.response := exec_response_congr hu h fun n hn => by
    rw [exec_x h, storedBy_eq_none_of_cellRead hn, Option.getD_none]
  rw [hu, State.ext_x hcells hinputs hresponse hrefused]

/-- Settles O35: the frame of `exec`, its repetition, and that RESOLVE reads no cell. -/
theorem repeatingARequestChangesNothing : Obligations.RepeatingARequestChangesNothing := by
  refine ⟨fun i s => ?_, fun name s s' => ?_⟩
  · obtain ⟨t, ht, -⟩ := exec_cases i s
    exact ⟨t, ht, exec_repeat ht, fun n hn => by rw [exec_x ht, hn, Option.getD_none]⟩
  · obtain ⟨t, ht, -⟩ := exec_cases (.resolve name) s
    obtain ⟨t', ht', -⟩ := exec_cases (.resolve name) s'
    exact ⟨t, t', ht, ht', exec_response_congr ht ht' fun _ hn => nomatch hn⟩

end Sys2Proof.Machine
end

section
/-! SUPPORT. The decoder as a function of the used fields alone (30_encoding.md R37), and the data item of an OK response
(30_encoding.md R40). -/

namespace Sys2Proof

open Sys2Proof.Safety

/-- Every `op` but 111 selects an operation (30_encoding.md R35). -/
theorem decodeOp_ok_of_op_lt {r : Request} (h : r.op.toNat < 7) : ∃ i, decodeOp r = .ok i := by
  unfold decodeOp
  interval_cases r.op.toNat <;> exact ⟨_, rfl⟩

/-- A header that is not reserved is admitted (30_encoding.md R38). -/
theorem decode_ok_of_not_reservedHeader {r : Request} (h : ¬ ReservedHeader r.hdr) : ∃ i, decode r = .ok i := by
  obtain ⟨hrsv, hop⟩ := not_or.mp h
  have hseven : r.op.toNat ≠ 7 := fun hc => hop (BitVec.eq_of_toNat_eq ((op_toNat_eq_mask r).symm.trans hc))
  have hlt : r.op.toNat < 8 := r.op.isLt
  rw [decode_of_rsv_eq ((rsv_eq_zero_iff_mask r).mpr (not_not.mp hrsv))]
  exact decodeOp_ok_of_op_lt (by omega)

/-- The decoder takes from a request only the fields that `op` selects: one case for each `op`. -/
theorem decodeOp_congr {r r' : Request} (h : AgreeOnUsedFields r r') : decodeOp r = decodeOp r' := by
  obtain ⟨hhdr, hview, hnum, hwdata, hname⟩ := h
  have hop : r.op = r'.op := ((admissionMask_iff r r').mp hhdr).1
  have hmask : r.hdr &&& 0x07 = BitVec.ofNat 8 r.op.toNat := by
    rw [op_toNat_eq_mask, BitVec.ofNat_toNat, BitVec.setWidth_eq]
  rw [hmask] at hview hnum hwdata hname
  unfold decodeOp
  rw [← hop, viewBit_eq_mask, viewBit_eq_mask]
  split
  case h_1 h => rw [hview (by simp [h]), hnum (by simp [h])]
  case h_2 h => rw [hview (by simp [h]), hnum (by simp [h]), hwdata (by simp [h])]
  case h_3 h => rw [hname (by simp [h])]
  case h_4 h => rw [hnum (by simp [h])]
  case h_5 => rfl
  case h_6 h => rw [hname (by simp [h])]
  case h_7 h => rw [hname (by simp [h]), hwdata (by simp [h])]
  case h_8 => rfl

/-- Requests that agree on the used fields decode alike, reserved headers included. -/
theorem decode_congr {r r' : Request} (h : AgreeOnUsedFields r r') : decode r = decode r' := by
  have ⟨hhdr, _⟩ := h
  have hrsv : r.rsv = r'.rsv := ((admissionMask_iff r r').mp hhdr).2
  unfold decode
  rw [hrsv, decodeOp_congr h]

end Sys2Proof

namespace Sys2Proof.Machine

open Sys2Proof.Safety

/-- An admitted request runs what it decodes to; its header and fields play no other part. -/
theorem stepRequest_of_decode_ok {r : Request} {i : Instr} (h : decode r = .ok i) (s : State) :
    stepRequest r s = exec i s := by
  simp only [stepRequest, h]

/-- Settles O3: the decoder reads only the used fields, and an admitted request runs what it decodes to. -/
theorem unusedFieldsAreIgnored : Obligations.UnusedFieldsAreIgnored := by
  refine fun r r' hagree => ⟨decode_congr hagree, fun hadmitted s => ?_⟩
  obtain ⟨i, hi⟩ := decode_ok_of_not_reservedHeader hadmitted
  rw [stepRequest_of_decode_ok hi, stepRequest_of_decode_ok (decode_congr hagree ▸ hi)]

/-- The view bit that a response encodes is the bit of the header that selects that view (30_encoding.md R36, R40). -/
theorem toBit_headerView : ∀ hdr : Byte, (headerView hdr).toBit = hdr.getLsbD 3 := by decide

/-- Settles O16: the data item in each of the five ways in which an admitted request ends with OK. -/
theorem dataItemOfEachOperation : Obligations.DataItemOfEachOperation := by
  refine ⟨fun i s t d h hd => ?_, fun hdr n => congrArg some (toBit_headerView hdr)⟩
  obtain ⟨t', h', hc⟩ := exec_cases i s
  obtain rfl : t' = t := by simpa [h'] using h
  -- an OK response rules out the two errors; the five ways to answer remain
  rcases hc with ⟨_, _, _, rfl⟩ | ⟨_, _, _, rfl⟩ | ⟨_, _, hi, rfl⟩ | ⟨_, _, _, rfl, _, rfl⟩ | ⟨_, _, _, hi, rfl⟩ |
    ⟨_, rfl, rfl⟩ | ⟨rfl, rfl⟩ <;> cases hd
  · rcases hi with rfl | ⟨_, rfl, _⟩ <;> simp
  · simp
  · rcases hi with rfl | ⟨_, rfl, _⟩ <;> simp
  · simp
  · simp

end Sys2Proof.Machine
end

section
/-! SUPPORT. The five cell primitives (40_slicers.md R42 to R46): what each returns or stores, its frame, and the aliasing
of the two views of a cell (R47). -/

namespace Sys2Proof.Machine

open Sys2Proof.Safety

/-- Bit for bit, a truncation is the low half of the word (00_scope.md R8). -/
theorem low32_getLsbD (v : Word) {b : Nat} (hb : b < 32) : (low32 v).getLsbD b = v.getLsbD b := by
  simp [low32, hb]

/-- The upper half of a zero-extension is zero (00_scope.md R8). -/
theorem zext64_getLsbD_upper (u : Half) {b : Nat} (hb : 32 ≤ b) : (zext64 u).getLsbD b = false := by
  simp [zext64, BitVec.getLsbD_of_ge u b hb]

/-- Truncation undoes zero-extension. -/
@[simp] theorem low32_zext64 (u : Half) : low32 (zext64 u) = u := by
  apply BitVec.eq_of_toNat_eq
  rw [low32_toNat, zext64_toNat, Nat.mod_eq_of_lt u.isLt]

section
variable (s : State) (n : CellNum) (v : Word) (u : Half)

/-- `x[n] <- v` stores `v` in cell `n`. -/
@[simp] theorem State.setX_x_same : (s.setX n v).x n = v := by
  rw [State.setX_x, if_pos rfl]

/-- The frame of every primitive that stores: `x[n] <- v` leaves each other cell as it was. -/
theorem State.sameCellsExcept_setX : SameCellsExcept n s (s.setX n v) := fun m hm => by
  rw [State.setX_x, if_neg hm]

/-- The 64-bit slicer stores the word as it is (40_slicers.md R43). -/
@[simp] theorem State.set64_x_same : (s.set64 n v).x n = v := State.setX_x_same s n v

/-- The 32-bit slicer stores the zero-extended half (40_slicers.md R45). -/
@[simp] theorem State.set32_x_same : (s.set32 n u).x n = zext64 u := State.setX_x_same s n (zext64 u)

/-- A reset stores the reset value (40_slicers.md R46). -/
@[simp] theorem State.resetCell_x_same : (s.resetCell n).x n = Config.resetValue n := by
  rw [State.resetCell_x, if_pos rfl]

/-- The 64-bit slicer reads the whole cell (40_slicers.md R42). -/
theorem State.get64_eq : s.get64 n = s.x n := rfl

/-- The 32-bit slicer reads the truncated cell (40_slicers.md R44). -/
theorem State.get32_eq : s.get32 n = low32 (s.x n) := rfl

end

/-- Settles O17: each store is `x[n] <- v` for its own `v`, and the low view reads a truncation. -/
theorem cellPrimitives : Obligations.CellPrimitives := by
  refine fun s n v u => ⟨s.get64_eq n, ⟨s.set64_x_same n v, s.sameCellsExcept_setX n v⟩, ⟨?_, fun b hb => ?_⟩,
    ⟨?_, fun b hb => ?_, s.sameCellsExcept_setX n (zext64 u)⟩,
    s.resetCell_x_same n, rfl, s.sameCellsExcept_setX n (Config.resetValue n)⟩
  · rw [State.get32_eq, low32_toNat]
  · rw [State.get32_eq, low32_getLsbD _ hb]
  · rw [State.set32_x_same, zext64_toNat]
  · rw [State.set32_x_same, zext64_getLsbD_upper u hb]

/-- Settles O18: both views read the one word that was stored last, and truncation undoes zero-extension. -/
theorem viewsAliasOneCell : Obligations.ViewsAliasOneCell := by
  refine fun s n v u => ⟨?_, ?_, ?_, ?_, ?_⟩
  · rw [State.get64_eq, State.set64_x_same]
  · rw [State.get32_eq, State.set64_x_same, low32_toNat]
  · rw [State.get32_eq, State.set32_x_same, low32_zext64]
  · rw [State.get64_eq, State.set32_x_same, zext64_toNat]
  · rw [State.get64_eq, State.resetCell_x_same, Config.resetValue]

end Sys2Proof.Machine
end

section
/-! SUPPORT. From a resolved name to its entry in the table of names (42_resolve.md R61): every answer of `resolve` is a
`ResolvableName`, and the PC has four names. -/

namespace Sys2Proof.Machine

open Sys2Proof.Safety

/-- A digit byte is the byte of its value (42_resolve.md R60). -/
theorem exists_digitByte_of_isDigit {b : Byte} (h : isDigit b = true) :
    ∃ d : Fin 10, digitByte d = b ∧ d.val = b.toNat - 0x30 := by
  obtain ⟨hlow, hhigh⟩ : 0x30 ≤ b.toNat ∧ b.toNat ≤ 0x39 := by simpa [isDigit] using h
  refine ⟨⟨b.toNat - 0x30, by omega⟩, BitVec.eq_of_toNat_eq ?_, rfl⟩
  simp only [digitByte, BitVec.toNat_ofNat]
  omega

/-- A nonempty sequence of digits is a numeral of its decimal value, by induction on its last digit. -/
theorem numeralOf_numeralValue {base : List Byte} (hne : base ≠ []) (h : ∀ b ∈ base, isDigit b = true) :
    NumeralOf base (numeralValue base) := by
  induction base using List.reverseRecOn with
  | nil => exact absurd rfl hne
  | append_singleton front b ih =>
    obtain ⟨d, rfl, hd⟩ := exists_digitByte_of_isDigit (h b (by simp))
    rw [numeralValue_snoc, ← hd]
    rcases eq_or_ne front [] with rfl | hfront
    · simpa [numeralValue] using NumeralOf.digit d
    · exact .more _ _ d (ih hfront fun c hc => h c (by simp [hc]))

/-- What `numeralNumber` selects is named by a numeral of at most 30. -/
theorem baseNameOf_of_numeralNumber {base : List Byte} {n : CellNum} (h : numeralNumber base = some n) :
    BaseNameOf base n := by
  unfold numeralNumber at h
  split_ifs at h with hnumeral hle
  cases h
  obtain ⟨hne, hdigits⟩ : base ≠ [] ∧ ∀ b ∈ base, isDigit b = true := by simpa [isNumeral] using hnumeral
  exact .numeral _ _ (numeralOf_numeralValue hne hdigits) hle

/-- What `baseNumber` selects is named by its base. -/
theorem baseNameOf_of_baseNumber {base : List Byte} {n : CellNum} (h : baseNumber base = some n) :
    BaseNameOf base n := by
  unfold baseNumber at h
  split_ifs at h with hzr hsp hpc
  · cases h; exact hzr ▸ .zr
  · cases h; exact hsp ▸ .sp
  · cases h; exact hpc ▸ .pc
  · exact baseNameOf_of_numeralNumber h

/-- A marker before a base name gives a name of the same cell with the marker's view. -/
theorem resolvableName_cons_marker {b : Byte} {m : Marker} {base : List Byte} {n : CellNum} (hm : markerOf b = some m)
    (hbase : BaseNameOf base n) : ResolvableName (b :: base) n (viewOfMarker (some m)) := by
  unfold markerOf at hm
  split_ifs at hm with hr hx hw
  · cases hm; exact hr ▸ .withR _ _ hbase
  · cases hm; exact hx ▸ .withX _ _ hbase
  · cases hm; exact hw ▸ .withW _ _ hbase

/-- Every answer of `resolve` stands in the table of resolvable names. -/
theorem resolvableName_of_resolve {name : List Byte} {n : CellNum} {view : View} (h : resolve name = some (n, view)) :
    ResolvableName name n view := by
  have bare (hmark : ∀ b, name.head? = some b → markerOf b = none) : ResolvableName name n view := by
    rw [resolve_bare hmark] at h
    obtain ⟨_, hn, ⟨⟩⟩ := Option.map_eq_some_iff.mp h
    exact .bare _ _ (baseNameOf_of_baseNumber hn)
  cases name with
  | nil => exact bare fun _ hb => nomatch hb
  | cons b base =>
    cases hm : markerOf b with
    | none => exact bare fun c hc => by cases hc; exact hm
    | some m =>
      rw [resolve_cons_marker hm] at h
      obtain ⟨_, hn, ⟨⟩⟩ := Option.map_eq_some_iff.mp h
      exact resolvableName_cons_marker hm (baseNameOf_of_baseNumber hn)

/-- The PC's base name is `PC` alone, as a numeral names no cell above 30. -/
theorem eq_pc_of_baseNameOf {base : List Byte} (h : BaseNameOf base 33) : base = [0x50, 0x43] := by
  cases h with
  | numeral _ _ _ hle => exact absurd hle (by decide)
  | pc => rfl

/-- The names of the PC: PC, RPC, XPC and WPC (42_resolve.md R65). -/
def pcNames : List (List Byte) := [[0x50, 0x43], [0x52, 0x50, 0x43], [0x58, 0x50, 0x43], [0x57, 0x50, 0x43]]

/-- The table holds no other name of the PC. -/
theorem mem_pcNames_of_resolvableName {name : List Byte} {view : View} (h : ResolvableName name 33 view) :
    name ∈ pcNames := by
  cases h with
  | bare _ _ hb | withR _ _ hb | withX _ _ hb | withW _ _ hb => simp [pcNames, eq_pc_of_baseNameOf hb]

end Sys2Proof.Machine
end

section
/-! SUPPORT. Access by number and the resets (41_access.md R48 to R54): the header of each operation, its result on each of
the 34 numbers, OutOfRange above them, and the requests that can change a cell. -/

namespace Sys2Proof

open Sys2Proof.Safety

/-- An admitted header has zero reserved bits, and its mask 0xF7 is `op` (30_encoding.md R38). -/
theorem rsv_op_of_admissionMask {r : Request} {m : Byte} (h : r.hdr &&& 0xF7 = m) (hm : m.toNat ≤ 6) :
    r.rsv = 0 ∧ r.op.toNat = m.toNat := by
  have fields : ∀ hdr : Byte, (hdr &&& 0xF7).toNat ≤ 6 →
      hdr.extractLsb' 4 4 = 0 ∧ (hdr.extractLsb' 0 3).toNat = (hdr &&& 0xF7).toNat := by decide
  subst h
  exact fields r.hdr hm

/-- The decoder's view is the one that bit 3 of the header selects (30_encoding.md R36). -/
theorem ofBit_viewBit (r : Request) : View.ofBit r.viewBit = headerView r.hdr := by
  rw [Request.viewBit, ← Machine.toBit_headerView, View.ofBit_toBit]

section
variable {r : Request}

/-- The headers of READ (41_access.md R49). -/
theorem decode_read (h : r.hdr &&& 0xF7 = 0x00) : decode r = .ok (.read r.num.toNat (headerView r.hdr)) := by
  obtain ⟨hrsv, hop⟩ := rsv_op_of_admissionMask h (by decide)
  simp [decode_of_rsv_eq hrsv, decodeOp, hop, ofBit_viewBit]

/-- The headers of WRITE (41_access.md R50). -/
theorem decode_write (h : r.hdr &&& 0xF7 = 0x01) :
    decode r = .ok (.write r.num.toNat (headerView r.hdr) r.wdata) := by
  obtain ⟨hrsv, hop⟩ := rsv_op_of_admissionMask h (by decide)
  simp [decode_of_rsv_eq hrsv, decodeOp, hop, ofBit_viewBit]

/-- The headers of RESET_REG (41_access.md R51). -/
theorem decode_resetReg (h : r.hdr &&& 0xF7 = 0x03) : decode r = .ok (.resetReg r.num.toNat) := by
  obtain ⟨hrsv, hop⟩ := rsv_op_of_admissionMask h (by decide)
  simp [decode_of_rsv_eq hrsv, decodeOp, hop]

/-- The headers of RESET_ALL (41_access.md R52). -/
theorem decode_resetAll (h : r.hdr &&& 0xF7 = 0x04) : decode r = .ok .resetAll := by
  obtain ⟨hrsv, hop⟩ := rsv_op_of_admissionMask h (by decide)
  simp [decode_of_rsv_eq hrsv, decodeOp, hop]

end

end Sys2Proof

namespace Sys2Proof.Machine

open Sys2Proof.Safety

/-- The instruction is a READ, WRITE or RESET_REG of `num`, the operations with a number operand (30_encoding.md R35). -/
def TakesNumber (num : Nat) (i : Instr) : Prop :=
  (∃ view, i = .read num view) ∨ (∃ view wdata, i = .write num view wdata) ∨ i = .resetReg num

/-- `check` selects the cell whose number it is given, and nothing else (41_access.md R48). -/
theorem check_eq_some_iff {num : Nat} {n : CellNum} : check num = some n ↔ num = n.val := by
  constructor
  · intro h
    rcases number_cases num with ⟨m, rfl⟩ | hnum
    · rw [check_val, Option.some_inj] at h
      rw [h]
    · rw [check_above hnum] at h
      cases h
  · rintro rfl
    exact check_val n

/-- `check` admits exactly the numbers up to 33 (41_access.md R48). -/
theorem exists_check_iff {num : Nat} : (∃ n, check num = some n) ↔ num ≤ 33 := by
  simp only [check_eq_some_iff]
  constructor
  · rintro ⟨n, rfl⟩
    exact Nat.le_of_lt_succ n.isLt
  · exact fun h => ⟨⟨num, Nat.lt_succ_of_le h⟩, rfl⟩

/-- The value of the word that a write stores through a view (41_access.md R50). -/
theorem stored_toNat_eq_viewValue (view : View) (wdata : Word) : (stored view wdata).toNat = viewValue view wdata := by
  cases view with
  | full64 => rfl
  | low32 => exact stored_toNat .low32 wdata

section
variable (s : State) (n : CellNum) (view : View) (wdata : Word)

/-- READ of a cell's number. -/
theorem exec_read_val : exec (.read n.val view) s = .next (s.ok (some (.rdata (s.readView n view)))) :=
  congrArg _ (s.withNumber_val n _)

/-- WRITE of a cell's number. -/
theorem exec_write_val : exec (.write n.val view wdata) s = .next ((s.writeView n view wdata).ok none) :=
  congrArg _ (s.withNumber_val n _)

/-- RESET_REG of a cell's number. -/
theorem exec_resetReg_val : exec (.resetReg n.val) s = .next ((s.resetCell n).ok none) :=
  congrArg _ (s.withNumber_val n _)

/-- RESET_ALL. -/
theorem exec_resetAll : exec .resetAll s = .next (s.resetCells.ok none) := rfl

/-- A number above 33 ends the three operations that take one with OutOfRange (41_access.md R48). -/
theorem exec_above {num : Nat} {i : Instr} (hnum : 33 < num) (hi : TakesNumber num i) :
    exec i s = .next (s.raise (.outOfRange num)) := by
  rcases hi with ⟨view, rfl⟩ | ⟨view, wdata, rfl⟩ | rfl <;> exact congrArg _ (s.withNumber_above hnum _)

/-- What every access by number does above 33: it answers OutOfRange and changes nothing else (60_exceptions.md R69). -/
theorem exec_above_frame {num : Nat} {i : Instr} (hnum : 33 < num) (hi : TakesNumber num i) :
    ∃ t, exec i s = .next t ∧ t.response = some (.error (.outOfRange num)) ∧ SameCells s t ∧ SameRest s t :=
  ⟨_, exec_above s hnum hi, rfl, fun _ => rfl, rfl, rfl⟩

/-- Reading through a view returns the view's value of the cell (41_access.md R49). -/
theorem State.readView_toNat : (s.readView n view).toNat = viewValue view (s.x n) := by
  rw [State.readView_eq, stored_toNat_eq_viewValue]

/-- A write through a view stores into its cell. -/
@[simp] theorem State.writeView_x_same : (s.writeView n view wdata).x n = stored view wdata := by
  rw [State.writeView_x, if_pos rfl]

/-- The frame of a write through a view: each other cell is as it was. -/
theorem State.sameCellsExcept_writeView : SameCellsExcept n s (s.writeView n view wdata) := fun m hm => by
  rw [State.writeView_x, if_neg hm]

end

/-- A cell that a write through a view changes is the cell written. -/
theorem eq_of_sameCellsExcept {s t : State} {m n : CellNum} (h : SameCellsExcept m s t) (hne : t.x n ≠ s.x n) :
    n = m :=
  not_imp_comm.mp (h n) hne

/-- OutOfRange comes from a number operand above 33 alone, and is all that the request changes. -/
theorem exec_eq_raise_of_outOfRange {i : Instr} {s t : State} {num : Nat} (h : exec i s = .next t)
    (hr : t.response = some (.error (.outOfRange num))) :
    33 < num ∧ TakesNumber num i ∧ t = s.raise (.outOfRange num) := by
  obtain ⟨t', h', hc⟩ := exec_cases i s
  obtain rfl : t' = t := by simpa [h'] using h
  -- an OutOfRange response rules out every way to end but the first
  rcases hc with ⟨_, hnum, hi, rfl⟩ | ⟨_, _, _, rfl⟩ | ⟨_, _, _, rfl⟩ | ⟨_, _, _, _, _, rfl⟩ | ⟨_, _, _, _, rfl⟩ |
    ⟨_, _, rfl⟩ | ⟨_, rfl⟩ <;> cases hr
  exact ⟨hnum, hi, rfl⟩

/-- Settles O11: `check` case by case, and the one way to end with OutOfRange. -/
theorem outOfRangeExactlyAbove33 : Obligations.OutOfRangeExactlyAbove33 := by
  refine ⟨fun _ _ => check_eq_some_iff, fun _ => exists_check_iff, fun i s => ?_⟩
  obtain ⟨t, ht, -⟩ := exec_cases i s
  refine ⟨t, ht, fun num => ⟨⟨fun hr => ?_, fun ⟨hnum, hi⟩ => ?_⟩, fun hr => ?_⟩⟩
  · obtain ⟨hnum, hi, -⟩ := exec_eq_raise_of_outOfRange ht hr
    exact ⟨hnum, hi⟩
  · cases ht.symm.trans (exec_above s hnum hi)
    rfl
  · obtain ⟨-, -, rfl⟩ := exec_eq_raise_of_outOfRange ht hr
    exact fun _ => rfl

/-- The instruction is one that names cell `n` to store into it (41_access.md R54). -/
def NamesToStore (n : CellNum) (i : Instr) : Prop :=
  (∃ view wdata, i = .write n.val view wdata) ∨ i = .resetReg n.val ∨ i = .resetAll ∨
    ∃ name view wdata, i = .nwrite name wdata ∧ ResolvableName name n view

/-- A request that changes a cell ends with OK and names that cell to store into it. -/
theorem namesToStore_of_exec_x_ne {i : Instr} {s t : State} {n : CellNum} (h : exec i s = .next t)
    (hne : t.x n ≠ s.x n) : (∃ d, t.response = some (.ok d)) ∧ NamesToStore n i := by
  obtain ⟨t', h', hc⟩ := exec_cases i s
  obtain rfl : t' = t := by simpa [h'] using h
  rcases hc with ⟨_, _, _, rfl⟩ | ⟨_, _, _, rfl⟩ | ⟨_, _, _, rfl⟩ | ⟨_, _, _, _, _, rfl⟩ | ⟨m, view, wdata, hi, rfl⟩ |
    ⟨m, rfl, rfl⟩ | ⟨rfl, rfl⟩
  -- the two errors and the two answers without a store leave every cell
  iterate 4 exact absurd rfl hne
  · obtain rfl : n = m := eq_of_sameCellsExcept (s.sameCellsExcept_writeView m view wdata) hne
    rcases hi with rfl | ⟨name, rfl, hname⟩
    · exact ⟨⟨none, rfl⟩, .inl ⟨view, wdata, rfl⟩⟩
    · exact ⟨⟨none, rfl⟩, .inr (.inr (.inr ⟨name, view, wdata, rfl, resolvableName_of_resolve hname⟩))⟩
  · obtain rfl : n = m := eq_of_sameCellsExcept (s.sameCellsExcept_setX m (Config.resetValue m)) hne
    exact ⟨⟨none, rfl⟩, .inr (.inl rfl)⟩
  · exact ⟨⟨none, rfl⟩, .inr (.inr (.inl rfl))⟩

/-- Settles O14: a changed cell is named by its request, and a refusal leaves only the mark. -/
theorem onlyWritesAndResetsChangeCells : Obligations.OnlyWritesAndResetsChangeCells := by
  refine ⟨fun i s t n => namesToStore_of_exec_x_ne, fun s ⟨why, hwhy⟩ m => ?_⟩
  rw [State.afterStep_of_refused hwhy, State.refuse_x]

/-- Settles O19: READ returns the view's value of the cell and touches nothing but the response. -/
theorem readByNumber : Obligations.ReadByNumber := by
  refine ⟨fun _ => decode_read, fun s num view => ⟨?_, fun hnum => exec_above_frame s hnum (.inl ⟨view, rfl⟩)⟩⟩
  rintro n rfl
  exact ⟨_, _, exec_read_val s n view, rfl, s.readView_toNat n view, fun _ => rfl, rfl, rfl⟩

/-- Settles O20: WRITE stores the view's value of the write data into the cell alone. -/
theorem writeByNumber : Obligations.WriteByNumber := by
  refine ⟨fun _ => decode_write, fun s num view wdata =>
    ⟨?_, fun hnum => exec_above_frame s hnum (.inr (.inl ⟨view, wdata, rfl⟩))⟩⟩
  rintro n rfl
  refine ⟨_, exec_write_val s n view wdata, rfl, ?_, s.sameCellsExcept_writeView n view wdata, ?_, ?_⟩
  · rw [State.ok_x, State.writeView_x_same, stored_toNat_eq_viewValue]
  · exact s.writeView_inputs n wdata view
  · exact s.writeView_refused n wdata view

/-- Settles O21: RESET_REG stores the reset value into the cell alone. -/
theorem resetOneCell : Obligations.ResetOneCell := by
  refine ⟨fun _ => decode_resetReg, fun s num => ⟨?_, fun hnum => exec_above_frame s hnum (.inr (.inr rfl))⟩⟩
  rintro n rfl
  exact ⟨_, exec_resetReg_val s n, rfl, s.resetCell_x_same n, s.sameCellsExcept_setX n (Config.resetValue n), rfl, rfl⟩

/-- Settles O22: RESET_ALL stores every cell's reset value, 0, in one step. -/
theorem resetEveryCell : Obligations.ResetEveryCell :=
  ⟨fun _ => decode_resetAll, fun s =>
    ⟨_, exec_resetAll s, rfl, fun n => ⟨s.resetCells_x n, s.resetCells_x n⟩, rfl, rfl⟩⟩

/-- A word written through one view and read back through another is truncated unless both views are the 64-bit one. -/
theorem viewValue_stored (view view' : View) (wdata : Word) :
    viewValue view' (stored view wdata) =
      if view = .full64 ∧ view' = .full64 then wdata.toNat else wdata.toNat % 2 ^ 32 := by
  cases view <;> cases view' <;> simp [viewValue, stored_toNat]

/-- Settles O23: the round trip through any two views, and the changes of the PC by the step's oldest input. -/
theorem specialCellsAreOrdinary : Obligations.SpecialCellsAreOrdinary := by
  refine ⟨fun s n view view' wdata => ?_, fun s t hstep hne => ?_⟩
  · refine ⟨_, _, _, exec_write_val s n view wdata, exec_read_val _ n view', rfl, ?_⟩
    rw [State.readView_toNat, State.ok_x, State.writeView_x_same, viewValue_stored]
  · rcases step_cases s with ⟨_, h⟩ | ⟨rest, hin, _⟩ | ⟨r, rest, i, hin, hi, h⟩ | ⟨_, _, _, _, _, h⟩
    · cases h.symm.trans hstep
      exact absurd rfl hne
    · exact .inl ⟨rest, hin⟩
    · obtain ⟨-, hnames⟩ := namesToStore_of_exec_x_ne (h.symm.trans hstep) hne
      refine .inr ⟨r, rest, i, hin, hi, hnames.imp_right (.imp_right (.imp_right ?_))⟩
      rintro ⟨name, _, wdata, rfl, hname⟩
      exact ⟨name, wdata, rfl, mem_pcNames_of_resolvableName hname⟩
    · cases h.symm.trans hstep

end Sys2Proof.Machine
end

section
/-! SUPPORT. From the table of names (42_resolve.md R61) to `resolve`: every `ResolvableName` resolves to its entry, so the
two agree; and what the table says of bytes, markers, views and numerals (R56 to R60). -/

namespace Sys2Proof.Machine

open Sys2Proof.Safety

/-! ### Markers -/

/-- `markerOf` recognises exactly the three marker bytes (42_resolve.md R57). -/
theorem mem_markerBytes_iff : ∀ b : Byte, b ∈ markerBytes ↔ ∃ m, markerOf b = some m := by
  simp only [← Option.isSome_iff_exists]
  decide

/-- A byte that is no marker byte is not recognised as a marker. -/
theorem markerOf_eq_none_iff {b : Byte} : markerOf b = none ↔ b ∉ markerBytes := by
  rw [mem_markerBytes_iff, ← Option.isSome_iff_exists, Option.not_isSome_iff_eq_none]

/-- The base begins with no marker byte, so that a marker before it, or none, is the name's only one. -/
def NoMarkerFirst (base : List Byte) : Prop := ∀ b, base.head? = some b → b ∉ markerBytes

/-- What may stand before a base name: nothing or one marker (42_resolve.md R57). -/
def marks : List (List Byte) := [] :: markerBytes.map fun m => [m]

/-- `resolve` of an unmarked name, by its base number. -/
theorem resolve_of_noMarkerFirst {base : List Byte} (h : NoMarkerFirst base) :
    resolve base = (baseNumber base).map fun n => (n, View.full64) :=
  resolve_bare fun b hb => markerOf_eq_none_iff.mpr (h b hb)

/-- The number of a name is that of its base, whatever the mark (42_resolve.md R57, R58). -/
theorem resolve_mark_append {mark base : List Byte} (hmark : mark ∈ marks) (hbase : NoMarkerFirst base) :
    (resolve (mark ++ base)).map Prod.fst = baseNumber base := by
  obtain rfl | ⟨b, hb, rfl⟩ : mark = [] ∨ ∃ b ∈ markerBytes, [b] = mark := by simpa [marks] using hmark
  · rw [List.nil_append, resolve_of_noMarkerFirst hbase, Option.map_map]
    exact Option.map_id'
  · obtain ⟨m, hm⟩ := (mem_markerBytes_iff b).mp hb
    rw [List.singleton_append, resolve_cons_marker hm, Option.map_map]
    exact Option.map_id'

/-! ### Numerals -/

/-- `isNumeral` in words: not empty, and digits only. -/
theorem isNumeral_iff {base : List Byte} : isNumeral base = true ↔ base ≠ [] ∧ ∀ b ∈ base, isDigit b = true := by
  simp [isNumeral]

/-- The byte of a digit is recognised as one. -/
theorem isDigit_digitByte : ∀ d : Fin 10, isDigit (digitByte d) = true := by decide

/-- The value that `numeralValue` takes from the byte of a digit. -/
theorem digitByte_toNat_sub : ∀ d : Fin 10, (digitByte d).toNat - 0x30 = d.val := by decide

/-- The numerals of the table are those of `resolve`, with the same value. -/
theorem isNumeral_and_numeralValue_of_numeralOf {base : List Byte} {v : Nat} (h : NumeralOf base v) :
    isNumeral base = true ∧ numeralValue base = v := by
  induction h with
  | digit d => exact ⟨by simp [isNumeral, isDigit_digitByte], by simp [numeralValue, digitByte_toNat_sub]⟩
  | more base v d _ ih =>
    obtain ⟨hnumeral, rfl⟩ := ih
    refine ⟨isNumeral_iff.mpr ⟨by simp, ?_⟩, by rw [numeralValue_snoc, digitByte_toNat_sub]⟩
    simpa [or_imp, forall_and, isDigit_digitByte] using (isNumeral_iff.mp hnumeral).2

/-- A numeral is not empty, and every byte of it is a digit. -/
theorem ne_nil_and_isDigit_of_numeralOf {base : List Byte} {v : Nat} (h : NumeralOf base v) :
    base ≠ [] ∧ ∀ b ∈ base, isDigit b = true :=
  isNumeral_iff.mp (isNumeral_and_numeralValue_of_numeralOf h).1

/-- A numeral begins with a digit, which is no marker, whatever its value. -/
theorem noMarkerFirst_of_numeralOf {base : List Byte} {v : Nat} (h : NumeralOf base v) : NoMarkerFirst base := by
  have digit : ∀ b : Byte, isDigit b = true → b ∉ markerBytes := by decide
  obtain ⟨-, hdigits⟩ := ne_nil_and_isDigit_of_numeralOf h
  exact fun b hb => digit b (hdigits b (List.mem_of_mem_head? hb))

/-- A numeral selects the number of its value up to 30 and nothing above: it is none of the special names. -/
theorem baseNumber_of_numeralOf {base : List Byte} {v : Nat} (h : NumeralOf base v) :
    baseNumber base = if hv : v ≤ 30 then some ⟨v, Nat.lt_of_le_of_lt hv (by decide)⟩ else none := by
  obtain ⟨hnumeral, rfl⟩ := isNumeral_and_numeralValue_of_numeralOf h
  have special {name : List Byte} (hname : isNumeral name = false) : base ≠ name := by
    rintro rfl
    simp [hnumeral] at hname
  rw [baseNumber, if_neg (special (by decide)), if_neg (special (by decide)), if_neg (special (by decide))]
  exact if_pos hnumeral

/-- The byte sequence of any digits is a numeral of their decimal value, the last digit the units. -/
theorem numeralOf_map_digitByte {digits : List (Fin 10)} (hne : digits ≠ []) :
    NumeralOf (digits.map digitByte) (Nat.ofDigits 10 (digits.reverse.map Fin.val)) := by
  induction digits using List.reverseRecOn with
  | nil => exact absurd rfl hne
  | append_singleton front d ih =>
    rcases eq_or_ne front [] with rfl | hfront
    · simpa using NumeralOf.digit d
    · simpa [Nat.ofDigits_cons, Nat.add_comm] using (ih hfront).more _ _ d

/-- Every numeral is the byte sequence of some digits. -/
theorem exists_digits_of_numeralOf {base : List Byte} {v : Nat} (h : NumeralOf base v) :
    ∃ digits : List (Fin 10), digits ≠ [] ∧ base = digits.map digitByte := by
  induction h with
  | digit d => exact ⟨[d], by simp, rfl⟩
  | more _ _ d _ ih =>
    obtain ⟨digits, -, rfl⟩ := ih
    exact ⟨digits ++ [d], by simp, by simp⟩

/-! ### The table -/

/-- The number of every base name of the table. -/
theorem baseNumber_of_baseNameOf {base : List Byte} {n : CellNum} (h : BaseNameOf base n) :
    baseNumber base = some n := by
  cases h with
  | numeral _ _ hnumeral hle => rw [baseNumber_of_numeralOf hnumeral, dif_pos hle]
  | zr | sp | pc => rfl

/-- A base name is not empty, and its bytes are among those that R56 lists. -/
theorem ne_nil_and_nameBytes_of_baseNameOf {base : List Byte} {n : CellNum} (h : BaseNameOf base n) :
    base ≠ [] ∧ ∀ b ∈ base, b ∈ nameBytes := by
  have digit : ∀ b : Byte, isDigit b = true → b ∈ nameBytes := by decide
  cases h with
  | numeral _ _ hnumeral _ =>
    exact (ne_nil_and_isDigit_of_numeralOf hnumeral).imp_right fun hdigits b hb => digit b (hdigits b hb)
  | zr | sp | pc => decide

/-- No base name begins with a marker: digits, `Z`, `S` and `P` are none. -/
theorem noMarkerFirst_of_baseNameOf {base : List Byte} {n : CellNum} (h : BaseNameOf base n) : NoMarkerFirst base := by
  cases h with
  | numeral _ _ hnumeral _ => exact noMarkerFirst_of_numeralOf hnumeral
  | zr | sp | pc => rintro b ⟨⟩; decide

/-- Every name of the table is a base name behind a mark. -/
theorem exists_mark_of_resolvableName {name : List Byte} {n : CellNum} {view : View} (h : ResolvableName name n view) :
    ∃ mark ∈ marks, ∃ base, BaseNameOf base n ∧ name = mark ++ base := by
  cases h with
  | bare _ _ hb => exact ⟨[], by decide, name, hb, rfl⟩
  | withR base _ hb => exact ⟨[0x52], by decide, base, hb, rfl⟩
  | withX base _ hb => exact ⟨[0x58], by decide, base, hb, rfl⟩
  | withW base _ hb => exact ⟨[0x57], by decide, base, hb, rfl⟩

/-- Every name of the table resolves to its entry. -/
theorem resolve_of_resolvableName {name : List Byte} {n : CellNum} {view : View} (h : ResolvableName name n view) :
    resolve name = some (n, view) := by
  cases h with
  | bare _ _ hb =>
    rw [resolve_of_noMarkerFirst (noMarkerFirst_of_baseNameOf hb), baseNumber_of_baseNameOf hb]
    rfl
  | withR _ _ hb | withX _ _ hb | withW _ _ hb =>
    rw [resolve_cons_marker rfl, baseNumber_of_baseNameOf hb]
    rfl

/-- `resolve` answers exactly the entries of the table. -/
theorem resolve_eq_some_iff {name : List Byte} {n : CellNum} {view : View} :
    resolve name = some (n, view) ↔ ResolvableName name n view :=
  ⟨resolvableName_of_resolve, resolve_of_resolvableName⟩

/-- A name resolves to nothing exactly when the table has no entry for it. -/
theorem resolve_eq_none_iff {name : List Byte} :
    resolve name = none ↔ ∀ n view, ¬ ResolvableName name n view := by
  simp only [Option.eq_none_iff_forall_ne_some, Prod.forall, ne_eq, resolve_eq_some_iff]

/-- Settles O27: both directions between `resolve` and the table, each by the cases of its grammar. -/
theorem resolveIsExactlyTheNameTable : Obligations.ResolveIsExactlyTheNameTable :=
  fun _ _ _ => resolve_eq_some_iff

/-- Settles O28: a mark and a base name hold listed bytes only, and a base name is not empty. -/
theorem onlyListedBytesResolve : Obligations.OnlyListedBytesResolve := by
  have markListed : ∀ mark ∈ marks, ∀ b ∈ mark, b ∈ nameBytes := by decide
  rintro name ⟨n, view⟩ h
  obtain ⟨mark, hmark, base, hbase, rfl⟩ := exists_mark_of_resolvableName (resolvableName_of_resolve h)
  obtain ⟨hne, hlisted⟩ := ne_nil_and_nameBytes_of_baseNameOf hbase
  exact ⟨List.append_ne_nil_of_right_ne_nil mark hne,
    fun b hb => (List.mem_append.mp hb).elim (markListed mark hmark b) (hlisted b)⟩

/-- Settles O29: behind the first marker the rest is the base, and no base name begins with a marker. -/
theorem atMostOneMarker : Obligations.AtMostOneMarker := by
  refine ⟨fun b hb b' hb' rest => ?_, fun b hb base hbase => ?_⟩
  · obtain ⟨m, hm⟩ := (mem_markerBytes_iff b).mp hb
    rw [resolve_cons_marker hm, Option.map_eq_none_iff, Option.eq_none_iff_forall_ne_some]
    exact fun n hn => noMarkerFirst_of_baseNameOf (baseNameOf_of_baseNumber hn) b' rfl hb'
  · have hmark : [b] ∈ marks := List.mem_cons_of_mem _ (List.mem_map_of_mem hb)
    calc (resolve base).map Prod.fst
      _ = baseNumber base := resolve_mark_append (mark := []) List.mem_cons_self hbase
      _ = (resolve (b :: base)).map Prod.fst := (resolve_mark_append hmark hbase).symm

/-- Settles O30: `W` in front is stripped as the marker, and only the table's names behind `W` have the 32-bit view. -/
theorem viewComesFromTheMarkerAlone : Obligations.ViewComesFromTheMarkerAlone := by
  refine ⟨fun base n view h => ?_, fun name n view hhead h => ?_⟩
  · rw [resolve_cons_marker (m := .w) rfl] at h
    obtain ⟨_, _, ⟨⟩⟩ := Option.map_eq_some_iff.mp h
    rfl
  · cases resolvableName_of_resolve h with
    | bare | withR | withX => rfl
    | withW => exact absurd rfl hhead

/-- A base name of a number up to 30 is a numeral. -/
theorem numeralOf_of_baseNameOf {base : List Byte} {n : CellNum} (h : BaseNameOf base n) (hn : n.val ≤ 30) :
    NumeralOf base n.val := by
  cases h with
  | numeral _ _ hnumeral _ => exact hnumeral
  | zr | sp | pc => exact absurd hn (by decide)

/-- Settles O31: a digit sequence is a numeral of its value, and only numerals name the numbers up to 30. -/
theorem numeralsResolveByExactValue : Obligations.NumeralsResolveByExactValue := by
  refine ⟨fun mark digits hmark hne => ?_, fun name n view hn h => ?_⟩
  · have hnumeral := numeralOf_map_digitByte hne
    have hnumber := resolve_mark_append hmark (noMarkerFirst_of_numeralOf hnumeral)
    rw [baseNumber_of_numeralOf hnumeral] at hnumber
    calc (resolve (mark ++ digits.map digitByte)).map (fun p => p.1.val)
      _ = ((resolve (mark ++ digits.map digitByte)).map Prod.fst).map Fin.val := (Option.map_map ..).symm
      _ = _ := by rw [hnumber]; split_ifs <;> rfl
  · obtain ⟨mark, hmark, base, hbase, rfl⟩ := exists_mark_of_resolvableName (resolvableName_of_resolve h)
    obtain ⟨digits, hne, rfl⟩ := exists_digits_of_numeralOf (numeralOf_of_baseNameOf hbase hn)
    exact ⟨mark, digits, hmark, hne, rfl⟩

end Sys2Proof.Machine
end

section
/-! SUPPORT. Access by name (42_resolve.md R62 to R65): the header of each operation, its result on the names of the table,
and UnresolvableName on all others. -/

namespace Sys2Proof

section
variable {r : Request}

/-- The headers of RESOLVE (42_resolve.md R62). -/
theorem decode_resolve (h : r.hdr &&& 0xF7 = 0x02) : decode r = .ok (.resolve r.name) := by
  obtain ⟨hrsv, hop⟩ := rsv_op_of_admissionMask h (by decide)
  simp [decode_of_rsv_eq hrsv, decodeOp, hop]

/-- The headers of NREAD (42_resolve.md R63). -/
theorem decode_nread (h : r.hdr &&& 0xF7 = 0x05) : decode r = .ok (.nread r.name) := by
  obtain ⟨hrsv, hop⟩ := rsv_op_of_admissionMask h (by decide)
  simp [decode_of_rsv_eq hrsv, decodeOp, hop]

/-- The headers of NWRITE (42_resolve.md R64). -/
theorem decode_nwrite (h : r.hdr &&& 0xF7 = 0x06) : decode r = .ok (.nwrite r.name r.wdata) := by
  obtain ⟨hrsv, hop⟩ := rsv_op_of_admissionMask h (by decide)
  simp [decode_of_rsv_eq hrsv, decodeOp, hop]

end

end Sys2Proof

namespace Sys2Proof.Machine

open Sys2Proof.Safety

/-- The instruction is a RESOLVE, NREAD or NWRITE of `name`, the operations with a name operand (30_encoding.md R35). -/
def TakesName (name : List Byte) (i : Instr) : Prop :=
  i = .resolve name ∨ i = .nread name ∨ ∃ wdata, i = .nwrite name wdata

section
variable (s : State) {name : List Byte} {n : CellNum} {view : View}

/-- RESOLVE of a name of the table answers its entry. -/
theorem exec_resolve_of_resolvableName (h : ResolvableName name n view) :
    exec (.resolve name) s = .next (s.ok (some (.resolved n view))) :=
  congrArg _ (s.withName_some (resolve_of_resolvableName h) _)

/-- NREAD of a name of the table is the READ of its entry. -/
theorem exec_nread_eq_read (h : ResolvableName name n view) : exec (.nread name) s = exec (.read n.val view) s := by
  rw [exec_read_val]
  exact congrArg _ (s.withName_some (resolve_of_resolvableName h) _)

/-- NWRITE of a name of the table is the WRITE of its entry. -/
theorem exec_nwrite_eq_write (h : ResolvableName name n view) (wdata : Word) :
    exec (.nwrite name wdata) s = exec (.write n.val view wdata) s := by
  rw [exec_write_val]
  exact congrArg _ (s.withName_some (resolve_of_resolvableName h) _)

/-- A name outside the table ends the three operations that take one with UnresolvableName (60_exceptions.md R68). -/
theorem exec_unresolvable {i : Instr} (hname : ∀ n view, ¬ ResolvableName name n view) (hi : TakesName name i) :
    exec i s = .next (s.raise (.unresolvableName name)) := by
  rcases hi with rfl | rfl | ⟨wdata, rfl⟩ <;> exact congrArg _ (s.withName_none (resolve_eq_none_iff.mpr hname) _)

/-- What every access by name does outside the table: it answers UnresolvableName and changes nothing else
(60_exceptions.md R69). -/
theorem exec_unresolvable_frame {i : Instr} (hname : ∀ n view, ¬ ResolvableName name n view) (hi : TakesName name i) :
    ∃ t, exec i s = .next t ∧ t.response = some (.error (.unresolvableName name)) ∧ SameCells s t ∧ SameRest s t :=
  ⟨_, exec_unresolvable s hname hi, rfl, fun _ => rfl, rfl, rfl⟩

end

/-- Settles O24: RESOLVE answers the table's entry and touches nothing but the response. -/
theorem resolveByName : Obligations.ResolveByName := by
  refine ⟨fun _ => decode_resolve, fun s name =>
    ⟨fun n view h => ?_, fun hname => exec_unresolvable_frame s hname (.inl rfl)⟩⟩
  exact ⟨_, exec_resolve_of_resolvableName s h, rfl, fun _ => rfl, rfl, rfl⟩

/-- Settles O25: NREAD is the READ of the table's entry, whose result and frame are those of O19. -/
theorem readByName : Obligations.ReadByName := by
  refine ⟨fun _ => decode_nread, fun s name =>
    ⟨fun n view h => ?_, fun hname => exec_unresolvable_frame s hname (.inr (.inl rfl))⟩⟩
  obtain ⟨t, v, ht, hframe⟩ := (readByNumber.2 s n.val view).1 n rfl
  exact ⟨t, v, (exec_nread_eq_read s h).trans ht, ht, hframe⟩

/-- Settles O26: NWRITE is the WRITE of the table's entry, whose result and frame are those of O20. -/
theorem writeByName : Obligations.WriteByName := by
  refine ⟨fun _ => decode_nwrite, fun s name wdata =>
    ⟨fun n view h => ?_, fun hname => exec_unresolvable_frame s hname (.inr (.inr ⟨wdata, rfl⟩))⟩⟩
  obtain ⟨t, ht, hframe⟩ := (writeByNumber.2 s n.val view wdata).1 n rfl
  exact ⟨t, (exec_nwrite_eq_write s h wdata).trans ht, ht, hframe⟩

/-- Settles O32: the four names are entries of the table, PC alone and behind each marker. -/
theorem pcNamesResolve : Obligations.PcNamesResolve := fun s =>
  ⟨exec_resolve_of_resolvableName s (.bare _ _ .pc), exec_resolve_of_resolvableName s (.withR _ _ .pc),
    exec_resolve_of_resolvableName s (.withX _ _ .pc), exec_resolve_of_resolvableName s (.withW _ _ .pc)⟩

end Sys2Proof.Machine
end

section
/-! SUPPORT. The outcomes of a request (60_exceptions.md R66 to R73): an answer, of which an error changes nothing else,
or a refusal, of which only the lasting mark remains. -/

namespace Sys2Proof

open Sys2Proof.Safety

/-- A reserved header is rejected, whatever the other fields hold (30_encoding.md R38). -/
theorem decode_error_of_reservedHeader {r : Request} (h : ReservedHeader r.hdr) : ∃ why, decode r = .error why := by
  by_cases hrsv : r.rsv = 0
  · have hseven : r.hdr &&& 0x07 = 0x07 := h.resolve_left (not_not_intro ((rsv_eq_zero_iff_mask r).mp hrsv))
    have hop : r.op.toNat = 7 := by rw [op_toNat_eq_mask, hseven]; rfl
    exact ⟨.opReserved, by simp [decode_of_rsv_eq hrsv, decodeOp, hop]⟩
  · exact ⟨.rsvNotZero, decode_of_rsv_ne hrsv⟩

end Sys2Proof

namespace Sys2Proof.Machine

open Sys2Proof.Safety

/-! ### Answers -/

/-- An admitted request always returns a response (30_encoding.md R39). -/
theorem exists_response_of_exec {i : Instr} {s t : State} (h : exec i s = .next t) :
    ∃ answer, t.response = some answer := by
  obtain ⟨t', h', hc⟩ := exec_cases i s
  obtain rfl : t' = t := by simpa [h'] using h
  rcases hc with ⟨_, _, _, rfl⟩ | ⟨_, _, _, rfl⟩ | ⟨_, _, _, rfl⟩ | ⟨_, _, _, _, _, rfl⟩ | ⟨_, _, _, _, rfl⟩ |
    ⟨_, _, rfl⟩ | ⟨_, rfl⟩ <;> exact ⟨_, rfl⟩

/-- The instruction's own operand is what the error records: a number above 33 (60_exceptions.md R67), or a name outside
the table (R68). -/
def BadOperand (i : Instr) : Error → Prop
  | .outOfRange num => 33 < num ∧ TakesNumber num i
  | .unresolvableName name => (∀ n view, ¬ ResolvableName name n view) ∧ TakesName name i

/-- An error comes from a bad operand alone, and its response is all that the request changes (60_exceptions.md R69). -/
theorem exec_eq_raise_of_error {i : Instr} {s t : State} {e : Error} (h : exec i s = .next t)
    (hr : t.response = some (.error e)) : BadOperand i e ∧ t = s.raise e := by
  obtain ⟨t', h', hc⟩ := exec_cases i s
  obtain rfl : t' = t := by simpa [h'] using h
  -- an error response rules out the five ways to end with OK
  rcases hc with ⟨_, hnum, hi, rfl⟩ | ⟨_, hname, hi, rfl⟩ | ⟨_, _, _, rfl⟩ | ⟨_, _, _, _, _, rfl⟩ | ⟨_, _, _, _, rfl⟩ |
    ⟨_, _, rfl⟩ | ⟨_, rfl⟩ <;> cases hr
  · exact ⟨⟨hnum, hi⟩, rfl⟩
  · exact ⟨⟨resolve_eq_none_iff.mp hname, hi⟩, rfl⟩

/-- Settles O12: an error comes from a bad operand alone, and a name outside the table always gives it. -/
theorem unresolvableNameExactlyOutsideTheTable : Obligations.UnresolvableNameExactlyOutsideTheTable := by
  intro i s
  obtain ⟨t, ht, -⟩ := exec_cases i s
  refine ⟨t, ht, fun name => ⟨fun hr => (exec_eq_raise_of_error ht hr).1, fun ⟨hname, hi⟩ => ?_⟩⟩
  cases ht.symm.trans (exec_unresolvable s hname hi)
  rfl

/-- Settles O13: the state that an error leaves is that of `raise`. -/
theorem errorsChangeNoCell : Obligations.ErrorsChangeNoCell := by
  intro i s t e h hr
  obtain ⟨-, rfl⟩ := exec_eq_raise_of_error h hr
  exact fun _ => rfl

/-! ### Refusals -/

/-- A reserved header as the oldest input is refused by name (60_exceptions.md R70). -/
theorem step_refused_of_reservedHeader {s : State} {r : Request} {rest : List Input}
    (hin : s.inputs = .request r :: rest) (h : ReservedHeader r.hdr) : ∃ why, step s = .refused (.reservedEncoding why r.hdr) := by
  obtain ⟨why, hwhy⟩ := decode_error_of_reservedHeader h
  exact ⟨why, by simp [step, State.takeInput, stepRequest, hin, hwhy]⟩

/-- An admitted header as the oldest input runs an instruction, on the state without that input. -/
theorem step_eq_exec_of_not_reservedHeader {s : State} {r : Request} {rest : List Input}
    (hin : s.inputs = .request r :: rest) (h : ¬ ReservedHeader r.hdr) :
    ∃ i, step s = exec i { s with inputs := rest } := by
  obtain ⟨i, hi⟩ := decode_ok_of_not_reservedHeader h
  exact ⟨i, by simp [step, State.takeInput, stepRequest, hin, hi]⟩

/-- Settles O9: a reserved header is refused; any other request answers, and an answer that is an error changes no
cell. -/
theorem requestEndsInOneOfFourOutcomes : Obligations.RequestEndsInOneOfFourOutcomes := by
  intro s r rest hin
  by_cases hreserved : ReservedHeader r.hdr
  · obtain ⟨why, hwhy⟩ := step_refused_of_reservedHeader hin hreserved
    exact .inl ⟨hreserved, _, hwhy⟩
  · obtain ⟨i, hstep⟩ := step_eq_exec_of_not_reservedHeader hin hreserved
    obtain ⟨t, ht, -⟩ := exec_cases i { s with inputs := rest }
    obtain ⟨answer, hanswer⟩ := exists_response_of_exec ht
    refine .inr ⟨hreserved, t, answer, hstep.trans ht, hanswer, ?_⟩
    cases answer with
    | ok d => exact .inl ⟨rfl, d, rfl⟩
    | error e =>
      have hcells : SameCells s t := errorsChangeNoCell i { s with inputs := rest } t e ht hanswer
      cases e with
      | outOfRange num => exact .inr (.inl ⟨rfl, ⟨num, rfl⟩, hcells⟩)
      | unresolvableName name => exact .inr (.inr ⟨rfl, ⟨name, rfl⟩, hcells⟩)

/-- No step clears the refusal mark (60_exceptions.md R70). -/
theorem State.afterStep_refused {s : State} (h : s.refused = true) : s.afterStep.refused = true := by
  rcases step_cases s with ⟨_, hstep⟩ | ⟨rest, _, hstep⟩ | ⟨_, rest, i, _, _, hstep⟩ | ⟨_, _, _, _, _, hstep⟩
  · rwa [State.afterStep_of_next hstep]
  · rwa [State.afterStep_of_next hstep]
  · obtain ⟨t, ht, -⟩ := exec_cases i { s with inputs := rest }
    rw [State.afterStep_of_next (hstep.trans ht), (exec_rest ht).2]
    exact h
  · rw [State.afterStep_of_refused hstep, State.refuse_refused]

/-- The refusal mark stays set, by induction on the steps in service. -/
theorem State.serve_refused (k : Nat) {s : State} (h : s.refused = true) : (State.serve k s).refused = true := by
  induction k generalizing s with
  | zero => exact h
  | succ k ih => exact ih (State.afterStep_refused h)

/-- Settles O10: after a refusal the state is that of `refuse`, whose mark no later step clears. -/
theorem refusalLeavesOnlyTheMark : Obligations.RefusalLeavesOnlyTheMark := by
  intro s r rest hin h
  obtain ⟨why, hwhy⟩ := step_refused_of_reservedHeader hin h
  rw [State.afterStep_of_refused hwhy]
  exact ⟨⟨why, hwhy⟩, fun _ => rfl, rfl, fun k => State.serve_refused k s.refuse_refused⟩

end Sys2Proof.Machine
end

section
/-! SUPPORT. The diagnostic rendering (60_exceptions.md R77): 16 hexadecimal digits read as the value they render. -/

namespace Sys2Proof.Machine

/-- The lowest `k` digits of `m` in base `b`, the units first, read as `m` up to a multiple of `b ^ k`. -/
theorem ofDigits_map_range (b k m : Nat) :
    Nat.ofDigits b ((List.range k).map fun i => m / b ^ i % b) = m % b ^ k := by
  induction k generalizing m with
  | zero => simp [Nat.mod_one]
  | succ k ih =>
    have htail : ((List.range k).map Nat.succ).map (fun i => m / b ^ i % b) =
        (List.range k).map fun i => m / b / b ^ i % b := by
      simp [Nat.div_div_eq_div_mul, Nat.pow_succ']
    rw [List.range_succ_eq_map, List.map_cons, htail, Nat.ofDigits_cons, ih, Nat.pow_succ', Nat.mod_mul, Nat.pow_zero,
      Nat.div_one]

/-- From the right, digit `i` of the 16 has the weight 16^i. -/
theorem hexDigits_reverse_map_toNat (v : Word) :
    (hexDigits v).reverse.map BitVec.toNat = (List.range 16).map fun i => v.toNat / 16 ^ i % 16 := by
  refine List.ext_getElem (by simp [hexDigits_length]) fun i hi _ => ?_
  have hlt : i < 16 := by simpa [hexDigits_length] using hi
  have hweight : 60 - 4 * (16 - 1 - i) = 4 * i := by omega
  simp only [List.getElem_map, List.getElem_reverse, List.getElem_range, hexDigits_getElem, hexDigits_length, hweight,
    Nat.pow_mul, Nat.reducePow]

/-- The 16 digits of a value read as the value. -/
theorem ofDigits_hexDigits (v : Word) : Nat.ofDigits 16 ((hexDigits v).reverse.map BitVec.toNat) = v.toNat := by
  rw [hexDigits_reverse_map_toNat, ofDigits_map_range]
  exact Nat.mod_eq_of_lt v.isLt

/-- Line `n` of a rendering is that of cell `n`. -/
theorem RegisterFile.render_lines_getElem? (f : RegisterFile) (n : CellNum) :
    f.render.lines[n.val]? = some (f.bank.renderCell n) := by
  simp [RegisterFile.render]

/-- Settles O42: line `n` renders cell `n`, and its digits read as the cell's value. -/
theorem renderingShowsEveryCellInOrder : Obligations.RenderingShowsEveryCellInOrder := by
  refine fun f => ⟨rfl, rfl, by simp [RegisterFile.render], fun n => ?_⟩
  exact ⟨_, f.render_lines_getElem? n, rfl, rfl, hexDigits_length _, ofDigits_hexDigits _⟩

end Sys2Proof.Machine
end

section
/-! SUPPORT. Construction and reset (70_reset_and_hazards.md R79, R80): the hardware reset and RESET_ALL give the cells of
construction, and a cell's canonical name is an entry of the name table. -/

namespace Sys2Proof.Machine

open Sys2Proof.Safety

/-- With a hardware reset as the oldest input, a step performs it and leaves the later inputs waiting (log entry 5). -/
theorem step_of_hardwareReset {s : State} {rest : List Input} (hin : s.inputs = .hardwareReset :: rest) :
    step s = .next ({ s with inputs := rest } : State).hardwareReset := by
  simp [step, State.takeInput, hin]

/-- Restoring every cell gives the cells of construction: each reset value is the 0 that construction stores. -/
theorem State.resetCells_x_eq_reset_x (s : State) (n : CellNum) : s.resetCells.x n = State.reset.x n := by
  rw [s.resetCells_x n, State.reset_x]
  rfl

/-- Settles O34: the hardware reset and RESET_ALL both restore every cell. -/
theorem hardwareResetEqualsResetAll : Obligations.HardwareResetEqualsResetAll := by
  intro s rest hin
  refine ⟨_, _, step_of_hardwareReset hin, exec_resetAll _, fun n => ⟨?_, ?_⟩⟩
  · rw [State.hardwareReset_x]
    exact State.resetCells_x_eq_reset_x _ n
  · rw [State.ok_x]
    exact State.resetCells_x_eq_reset_x _ n

/-- The decimal digits of a number below 100 are a numeral of that number. -/
theorem numeralOf_decimalDigits {n : Nat} (hn : n < 100) : NumeralOf (decimalDigits n) n := by
  unfold decimalDigits
  split_ifs with hone
  · exact .digit ⟨n, hone⟩
  · have htens : n / 10 < 10 := by omega
    have hunits : n % 10 < 10 := Nat.mod_lt n (by decide)
    have hnumeral := (NumeralOf.digit ⟨n / 10, htens⟩).more _ _ ⟨n % 10, hunits⟩
    rwa [Nat.div_add_mod] at hnumeral

/-- A number has one decimal digit up to 9 and is written with two above. -/
theorem decimalDigits_length (n : Nat) : (decimalDigits n).length = if n ≤ 9 then 1 else 2 := by
  rw [decimalDigits, apply_ite List.length]
  exact if_congr Nat.lt_succ_iff rfl rfl

/-- The name of a general-purpose cell is `R` and its number's digits (10_state.md R12). -/
theorem cellName_of_le {n : CellNum} (hn : n.val ≤ 30) : cellName n = 0x52 :: decimalDigits n.val := by
  have special {m : CellNum} (hm : 30 < m.val) : n ≠ m := by
    rintro rfl
    omega
  rw [cellName, if_neg (special (by decide)), if_neg (special (by decide)), if_neg (special (by decide))]

/-- A cell is a general-purpose one or one of ZR, SP and PC (00_scope.md R6). -/
theorem cellNum_cases : ∀ n : CellNum, n.val ≤ 30 ∨ n = 31 ∨ n = 32 ∨ n = 33 := by decide

/-- A cell's canonical name is the table's entry for the 64-bit view of that cell. -/
theorem resolvableName_cellName (n : CellNum) : ResolvableName (cellName n) n .full64 := by
  rcases cellNum_cases n with hn | rfl | rfl | rfl
  · rw [cellName_of_le hn]
    exact .withR _ n (.numeral _ n (numeralOf_decimalDigits (by omega)) hn)
  · exact .bare _ _ .zr
  · exact .bare _ _ .sp
  · exact .bare _ _ .pc

/-- Settles O33: the cells are those of `reset`, and each canonical name resolves as the table's entry for its cell. -/
theorem constructionState : Obligations.ConstructionState := by
  refine ⟨fun n => ?_, fun n hn => ?_, rfl, rfl, rfl, fun _ _ => rfl⟩
  · exact ⟨State.reset_x n, rfl, resolve_of_resolvableName (resolvableName_cellName n)⟩
  · rw [cellName_of_le hn, List.length_cons, decimalDigits_length]
    exact ⟨rfl, by split_ifs <;> rfl⟩

end Sys2Proof.Machine
end

section
/-! SUPPORT. Decoder and encoder against each other (30_encoding.md R33 to R41): which headers are admitted, the header that
a decoded instruction came with, and the round trip in both directions. -/

namespace Sys2Proof

open Sys2Proof.Safety Sys2Proof.Laws

/-! ### Admission by the header alone -/

/-- The two masks of R38 in one: a header is not reserved exactly when its mask 0xF7 is one of the seven operations. -/
theorem not_reservedHeader_iff : ∀ hdr : Byte, ¬ ReservedHeader hdr ↔ (hdr &&& 0xF7).toNat ≤ 0x06 := by
  unfold ReservedHeader
  decide

/-- A request is rejected exactly on a reserved header (30_encoding.md R38). -/
theorem exists_decode_error_iff {r : Request} : (∃ why, decode r = .error why) ↔ ReservedHeader r.hdr := by
  refine ⟨fun ⟨why, hwhy⟩ => not_not.mp fun hadmitted => ?_, decode_error_of_reservedHeader⟩
  obtain ⟨i, hi⟩ := decode_ok_of_not_reservedHeader hadmitted
  cases hwhy.symm.trans hi

/-- A request is admitted exactly on every other header (30_encoding.md R38). -/
theorem exists_decode_ok_iff {r : Request} : (∃ i, decode r = .ok i) ↔ ¬ ReservedHeader r.hdr := by
  refine ⟨fun ⟨i, hi⟩ hreserved => ?_, decode_ok_of_not_reservedHeader⟩
  obtain ⟨why, hwhy⟩ := decode_error_of_reservedHeader hreserved
  cases hwhy.symm.trans hi

/-- Settles O4: both criteria speak of the header alone. -/
theorem headerAloneDecidesAdmission : Obligations.HeaderAloneDecidesAdmission := fun r =>
  ⟨exists_decode_ok_iff.trans (not_reservedHeader_iff r.hdr), exists_decode_error_iff⟩

/-- Settles O5: the ten headers are closed data, and the decoder computes. -/
theorem sampleHeadersDecode : Obligations.SampleHeadersDecode := by
  unfold Obligations.SampleHeadersDecode
  decide

/-! ### The header of a decoded instruction -/

/-- The seven admitted values of the mask 0xF7 (30_encoding.md R35). -/
theorem admissionMask_cases {hdr : Byte} (h : ¬ ReservedHeader hdr) :
    hdr &&& 0xF7 = 0x00 ∨ hdr &&& 0xF7 = 0x01 ∨ hdr &&& 0xF7 = 0x02 ∨ hdr &&& 0xF7 = 0x03 ∨ hdr &&& 0xF7 = 0x04 ∨
      hdr &&& 0xF7 = 0x05 ∨ hdr &&& 0xF7 = 0x06 := by
  have values : ∀ m : Byte, m.toNat ≤ 0x06 →
      m = 0x00 ∨ m = 0x01 ∨ m = 0x02 ∨ m = 0x03 ∨ m = 0x04 ∨ m = 0x05 ∨ m = 0x06 := by decide
  exact values _ ((not_reservedHeader_iff hdr).mp h)

/-- A request that decodes to an instruction has the match value of the instruction's row. -/
theorem admissionMask_of_decode {r : Request} {i : Instr} (h : decode r = .ok i) :
    r.hdr &&& 0xF7 = EncodedHeader.tableMatch i := by
  rcases admissionMask_cases (exists_decode_ok_iff.mp ⟨i, h⟩) with hm | hm | hm | hm | hm | hm | hm
  · cases (decode_read hm).symm.trans h; exact hm
  · cases (decode_write hm).symm.trans h; exact hm
  · cases (decode_resolve hm).symm.trans h; exact hm
  · cases (decode_resetReg hm).symm.trans h; exact hm
  · cases (decode_resetAll hm).symm.trans h; exact hm
  · cases (decode_nread hm).symm.trans h; exact hm
  · cases (decode_nwrite hm).symm.trans h; exact hm

/-- Every encoding carries the match value of its row: the family `EncodedHeader` as one statement. -/
theorem admissionMask_encode (i : Instr) : (encode i).hdr &&& 0xF7 = EncodedHeader.tableMatch i :=
  match i with
  | .read num view => EncodedHeader.read num view
  | .write num view wdata => EncodedHeader.write num view wdata
  | .resolve name => EncodedHeader.resolve name
  | .resetReg num => EncodedHeader.resetReg num
  | .resetAll => EncodedHeader.resetAll
  | .nread name => EncodedHeader.nread name
  | .nwrite name wdata => EncodedHeader.nwrite name wdata

/-- The mask 0xF7 contains the mask of `op`. -/
theorem opMask_of_admissionMask {hdr m : Byte} (h : hdr &&& 0xF7 = m) : hdr &&& 0x07 = m &&& 0x07 := by
  rw [← h, BitVec.and_assoc]
  rfl

/-! ### Operands through the record -/

/-- A number that fits is kept by the 32-bit field (30_encoding.md R33). -/
theorem toNat_ofNat_of_numFits {num : Nat} (h : numFits num = true) : (BitVec.ofNat 32 num).toNat = num := by
  have hlt : num < 2 ^ 32 := of_decide_eq_true h
  rw [BitVec.toNat_ofNat, Nat.mod_eq_of_lt hlt]

/-- A number read from the 32-bit field fits. -/
theorem numFits_toNat (num : BitVec 32) : numFits num.toNat = true := decide_eq_true num.isLt

/-- The view put into a header with bit 3 free is the view that the header selects (30_encoding.md R36). -/
theorem headerView_headerWithView {op : Byte} (hop : op &&& 0x08 = 0) (view : View) :
    headerView (headerWithView op view) = view := by
  have bitSet : ∀ hdr : Byte, ¬ (hdr ||| 0x08) &&& 0x08 = 0 := by decide
  cases view with
  | full64 => exact if_pos hop
  | low32 => exact if_neg (bitSet op)

/-- Headers that select the same view agree in the view bit. -/
theorem viewMask_eq_of_headerView_eq {hdr hdr' : Byte} (h : headerView hdr = headerView hdr') :
    hdr &&& 0x08 = hdr' &&& 0x08 := by
  have fromView : ∀ hdr : Byte, hdr &&& 0x08 = if headerView hdr = .full64 then 0 else 0x08 := by decide
  rw [fromView hdr, fromView hdr', h]

/-! ### The round trips -/

/-- Decoding an encoding gives the instruction back: the header selects the operation, and the record keeps each operand. -/
theorem decode_encode {i : Instr} (h : i.wf = true) : decode (encode i) = .ok i := by
  have hm := admissionMask_encode i
  cases i with
  | read num view =>
    rw [decode_read hm]
    simp only [encode, toNat_ofNat_of_numFits h, headerView_headerWithView (op := 0x00) (by decide)]
  | write num view wdata =>
    rw [decode_write hm]
    simp only [encode, toNat_ofNat_of_numFits h, headerView_headerWithView (op := 0x01) (by decide)]
  | resolve => exact decode_resolve hm
  | resetReg num =>
    rw [decode_resetReg hm]
    simp only [encode, toNat_ofNat_of_numFits h]
  | resetAll => exact decode_resetAll hm
  | nread => exact decode_nread hm
  | nwrite => exact decode_nwrite hm

/-- Settles O1: the round trip, for each of the seven operations. -/
theorem decodeInvertsEncode : Obligations.DecodeInvertsEncode := fun _ => decode_encode

/-- Settles O2: the encoding has the request's mask, so its operation, and each field that this operation uses went through
the decoded operand. -/
theorem encodeInvertsDecodeOnUsedFields : Obligations.EncodeInvertsDecodeOnUsedFields := by
  intro r i h
  have hm := admissionMask_of_decode h
  have henc := admissionMask_encode i
  rw [AgreeOnUsedFields, henc, hm, opMask_of_admissionMask henc]
  cases i with
  | read =>
    cases (decode_read hm).symm.trans h
    have hview := viewMask_eq_of_headerView_eq (headerView_headerWithView (op := 0x00) (by decide) (headerView r.hdr))
    simpa [Instr.wf, numFits_toNat, encode, EncodedHeader.tableMatch] using hview
  | write =>
    cases (decode_write hm).symm.trans h
    have hview := viewMask_eq_of_headerView_eq (headerView_headerWithView (op := 0x01) (by decide) (headerView r.hdr))
    simpa [Instr.wf, numFits_toNat, encode, EncodedHeader.tableMatch] using hview
  | resolve =>
    cases (decode_resolve hm).symm.trans h
    simp [Instr.wf, encode, EncodedHeader.tableMatch]
  | resetReg =>
    cases (decode_resetReg hm).symm.trans h
    simp [Instr.wf, numFits_toNat, encode, EncodedHeader.tableMatch]
  | resetAll => simp [Instr.wf, EncodedHeader.tableMatch]
  | nread =>
    cases (decode_nread hm).symm.trans h
    simp [Instr.wf, encode, EncodedHeader.tableMatch]
  | nwrite =>
    cases (decode_nwrite hm).symm.trans h
    simp [Instr.wf, encode, EncodedHeader.tableMatch]

end Sys2Proof
end

section
/-! SUPPORT. What one step does with the oldest input (20_memory.md R28, R30; log entries 3 to 6), and the status codes
(30_encoding.md R39). -/

namespace Sys2Proof.Machine

open Sys2Proof.Safety

/-- With no input waiting a step changes nothing (log entry 4). -/
theorem step_of_inputs_nil {s : State} (hin : s.inputs = []) : step s = .next s := by
  simp [step, State.takeInput, hin]

/-- A request that decodes as the oldest input runs its instruction, on the state without that input. -/
theorem step_of_decode_ok {s : State} {r : Request} {rest : List Input} {i : Instr}
    (hin : s.inputs = .request r :: rest) (hi : decode r = .ok i) : step s = exec i { s with inputs := rest } := by
  simp [step, State.takeInput, hin, stepRequest_of_decode_ok hi]

/-- A table word is read by the decoder as the request record that it is laid out as (log entry 6). -/
theorem decode_of_decodeTableWord {nbits w : Nat} {i : Instr} (h : decodeTableWord nbits w = some i) :
    decode (Request.ofTableWord nbits w) = .ok i := by
  unfold decodeTableWord at h
  cases hd : decode (Request.ofTableWord nbits w) with
  | ok j => rw [hd] at h; exact congrArg _ (Option.some.inj h)
  | error why => rw [hd] at h; cases h

/-- Settles O6: a table word placed as the oldest input is the request that the next step takes off again. -/
theorem stepPerformsDecodedRequest : Obligations.StepPerformsDecodedRequest :=
  ⟨fun _ _ _ _ => step_of_decode_ok, fun s nbits w _ h =>
    step_of_decode_ok (s := s.withFetchWord nbits w) rfl (decode_of_decodeTableWord h)⟩

/-- Everything a step in service can do with the oldest input: reset the file, perform an admitted request, or refuse. -/
theorem State.afterStep_cases {s : State} {input : Input} {rest : List Input} (hin : s.inputs = input :: rest) :
    (input = .hardwareReset ∧ s.afterStep = ({ s with inputs := rest } : State).hardwareReset) ∨
    (∃ r i, input = .request r ∧ decode r = .ok i ∧ exec i { s with inputs := rest } = .next s.afterStep) ∨
    (∃ r why, input = .request r ∧ decode r = .error why ∧ s.afterStep = s.refuse) := by
  rcases step_cases s with ⟨h, _⟩ | ⟨_, h, hstep⟩ | ⟨r, rest', i, h, hi, hstep⟩ | ⟨r, _, why, h, hwhy, hstep⟩ <;>
    cases hin.symm.trans h
  · exact .inl ⟨rfl, State.afterStep_of_next hstep⟩
  · obtain ⟨t, ht, -⟩ := exec_cases i { s with inputs := rest }
    rw [State.afterStep_of_next (hstep.trans ht)]
    exact .inr (.inl ⟨r, i, rfl, hi, ht⟩)
  · exact .inr (.inr ⟨r, why, rfl, hwhy, State.afterStep_of_refused hstep⟩)

/-- A step in service uses up exactly the oldest input. -/
theorem State.afterStep_inputs {s : State} {input : Input} {rest : List Input} (hin : s.inputs = input :: rest) :
    s.afterStep.inputs = rest := by
  rcases State.afterStep_cases hin with ⟨_, h⟩ | ⟨_, _, _, _, h⟩ | ⟨_, _, _, _, h⟩
  · rw [h, State.hardwareReset_inputs]
  · exact (exec_rest h).1
  · rw [h, State.refuse_inputs, hin, List.tail_cons]

/-- Settles O7: the idle step, and the one input that every other step uses up. -/
theorem eachStepTakesTheOldestInput : Obligations.EachStepTakesTheOldestInput :=
  ⟨fun _ => step_of_inputs_nil, fun _ _ _ => State.afterStep_inputs⟩

/-- A refused step has a reserved header as its oldest input. -/
theorem reservedHeader_of_step_refused {s : State} {why : Refusal} (h : step s = .refused why) :
    ∃ r rest, s.inputs = .request r :: rest ∧ ReservedHeader r.hdr := by
  rcases step_cases s with ⟨_, hstep⟩ | ⟨_, _, hstep⟩ | ⟨_, rest, i, _, _, hstep⟩ | ⟨r, rest, why', hin, hwhy, _⟩
  · cases hstep.symm.trans h
  · cases hstep.symm.trans h
  · obtain ⟨t, ht, -⟩ := exec_cases i { s with inputs := rest }
    cases (hstep.trans ht).symm.trans h
  · exact ⟨r, rest, hin, exists_decode_error_iff.mp ⟨why', hwhy⟩⟩

/-- Settles O8: there is no fault to end in, and a refusal comes from a reserved header and from nothing else. -/
theorem stepStopsExactlyOnReservedHeaders : Obligations.StepStopsExactlyOnReservedHeaders := by
  refine fun s => ⟨(nomatch ·), fun ⟨_, hwhy⟩ => reservedHeader_of_step_refused hwhy, ?_⟩
  rintro ⟨r, rest, hin, hreserved⟩
  obtain ⟨why, hwhy⟩ := step_refused_of_reservedHeader hin hreserved
  exact ⟨_, hwhy⟩

/-- Settles O15: one code for each form of a response, and 11 for none. -/
theorem statusCodes : Obligations.StatusCodes := by
  refine ⟨fun _ => rfl, fun _ => rfl, fun _ => rfl, fun r => ?_⟩
  rcases r with _ | ⟨_ | _⟩ <;> simp [Response.status]

end Sys2Proof.Machine
end

section
/-! SUPPORT. Ordering (20_memory.md R30): after a list of inputs in service, each cell holds what the latest of them to store
into it stored. -/

namespace Sys2Proof.Machine

open Sys2Proof.Safety

/-- With one older input, the value before the others is what that input leaves. -/
theorem latestValue_cons (n : CellNum) (before : Word) (input : Input) (inputs : List Input) :
    latestValue n before (input :: inputs) = latestValue n ((storedByInput n input).getD before) inputs := by
  unfold latestValue
  rw [List.reverse_cons, List.findSome?_append, Option.getD_or]
  simp

/-- The frame of every input: a cell holds what the input stores into it, or else its value before. -/
theorem State.afterStep_x {s : State} {input : Input} {rest : List Input} (hin : s.inputs = input :: rest)
    (n : CellNum) : s.afterStep.x n = (storedByInput n input).getD (s.x n) := by
  rcases State.afterStep_cases hin with ⟨rfl, h⟩ | ⟨_, _, rfl, hi, h⟩ | ⟨_, _, rfl, hwhy, h⟩
  · rw [h, State.hardwareReset_x, State.resetCells_x]
    rfl
  · simp [storedByInput, hi, exec_x h]
  · simp [storedByInput, hwhy, h]

/-- In service the oldest inputs are performed in their order: the later ones stay waiting, and each cell holds its latest
value. By induction on the inputs performed. -/
theorem State.serve_length {s : State} {earlier later : List Input} (hin : s.inputs = earlier ++ later) :
    (State.serve earlier.length s).inputs = later ∧
      ∀ n, (State.serve earlier.length s).x n = latestValue n (s.x n) earlier := by
  induction earlier generalizing s with
  | nil => exact ⟨hin, fun _ => rfl⟩
  | cons input earlier ih =>
    obtain ⟨hinputs, hcells⟩ := ih (State.afterStep_inputs hin)
    refine ⟨hinputs, fun n => ?_⟩
    rw [latestValue_cons, ← State.afterStep_x hin]
    exact hcells n

/-- The last of several steps in service. -/
theorem State.serve_succ_last (k : Nat) (s : State) : State.serve (k + 1) s = (State.serve k s).afterStep := by
  induction k generalizing s with
  | zero => rfl
  | succ k ih => exact ih s.afterStep

/-- The number of a cell fits in the number field of a request. -/
theorem numFits_val (n : CellNum) : numFits n.val = true :=
  decide_eq_true (n.isLt.trans (by decide))

/-- With the READ of a cell as the oldest input, a step in service answers the view's value. -/
theorem State.afterStep_read {s : State} {n : CellNum} {view : View} {rest : List Input}
    (hin : s.inputs = .request (encode (.read n.val view)) :: rest) :
    s.afterStep = ({ s with inputs := rest } : State).ok (some (.rdata (s.readView n view))) :=
  State.afterStep_of_next ((step_of_decode_ok hin (decode_encode (numFits_val n))).trans (exec_read_val _ n view))

/-- Settles O36: after the earlier inputs the cells hold their latest values, and the READ answers one and keeps all. -/
theorem readSeesTheLatestWrite : Obligations.ReadSeesTheLatestWrite := by
  intro s earlier n view hin
  obtain ⟨hinputs, hcells⟩ := State.serve_length hin
  rw [State.serve_succ_last, State.afterStep_read hinputs]
  exact ⟨_, rfl, by rw [State.readView_toNat, hcells], hcells⟩

end Sys2Proof.Machine
end

section
/-! SUPPORT. What every step and every run keeps: an honest response, the refusal mark as the record of refusals
(60_exceptions.md R70), and the safety of a correct executor (90_conflicts.md C6). -/

namespace Sys2Proof.Machine

open Sys2Proof.Safety

/-! ### The honest response -/

/-- A request answers honestly, whatever the response before: one case for each way to end. -/
theorem honestResponse_of_exec {i : Instr} {s t : State} (h : exec i s = .next t) : HonestResponse t := by
  obtain ⟨t', h', hc⟩ := exec_cases i s
  obtain rfl : t' = t := by simpa [h'] using h
  rcases hc with ⟨_, hnum, _, rfl⟩ | ⟨_, hname, _, rfl⟩ | ⟨n, view, _, rfl⟩ | ⟨_, _, name, _, hname, rfl⟩ |
    ⟨_, _, _, _, rfl⟩ | ⟨_, _, rfl⟩ | ⟨_, rfl⟩
  · exact hnum
  · exact resolve_eq_none_iff.mp hname
  · exact ⟨n, view, s.readView_toNat n view⟩
  · exact ⟨name, resolvableName_of_resolve hname⟩
  iterate 3 exact trivial

/-- Settles O37: an idle step keeps the response, a hardware reset has none, and a request answers honestly. -/
theorem stepKeepsHonestResponse : Obligations.StepKeepsHonestResponse := by
  intro s t hhonest h
  rcases step_cases s with ⟨_, hstep⟩ | ⟨_, _, hstep⟩ | ⟨_, _, _, _, _, hstep⟩ | ⟨_, _, _, _, _, hstep⟩
  · cases hstep.symm.trans h
    exact hhonest
  · cases hstep.symm.trans h
    exact trivial
  · exact honestResponse_of_exec (hstep.symm.trans h)
  · cases hstep.symm.trans h

/-- Settles O38: after reset there is no response to be dishonest (log entry 2). -/
theorem resetResponseIsHonest : Obligations.ResetResponseIsHonest := trivial

/-! ### The refusal mark -/

/-- A step that goes on leaves the refusal mark as it was. -/
theorem step_refused_eq {s t : State} (h : step s = .next t) : t.refused = s.refused := by
  rcases step_cases s with ⟨_, hstep⟩ | ⟨_, _, hstep⟩ | ⟨_, _, _, _, _, hstep⟩ | ⟨_, _, _, _, _, hstep⟩
  · cases hstep.symm.trans h
    rfl
  · cases hstep.symm.trans h
    rfl
  · exact (exec_rest (hstep.symm.trans h)).2
  · cases hstep.symm.trans h

/-- After a step that goes on, the rest of the run decides. -/
theorem nothingRefused_succ_of_next {s t : State} (h : step s = .next t) (k : Nat) :
    NothingRefused (k + 1) s ↔ NothingRefused k t := by
  rw [NothingRefused, run_succ_of_next h, NothingRefused]

/-- A refused first step ends the run. -/
theorem not_nothingRefused_succ_of_refused {s : State} {why : Refusal} (h : step s = .refused why) (k : Nat) :
    ¬ NothingRefused (k + 1) s := by
  rintro ⟨t, ht⟩
  cases (run_succ_of_refused h k).symm.trans ht

/-- A run that meets no refusal ends where service does. -/
theorem run_eq_serve {k : Nat} {s : State} (h : NothingRefused k s) :
    Host.Core.run Sys2Proof.core k s = .next (State.serve k s) := by
  induction k generalizing s with
  | zero => exact run_zero s
  | succ k ih =>
    cases hstep : step s with
    | next t =>
      rw [run_succ_of_next hstep, State.serve_succ, State.afterStep_of_next hstep]
      exact ih ((nothingRefused_succ_of_next hstep k).mp h)
    | fault f => nomatch f
    | refused why => exact absurd h (not_nothingRefused_succ_of_refused hstep k)

/-- From a state without the mark, service ends without it exactly when the run meets no refusal. -/
theorem serve_refused_eq_false_iff {k : Nat} {s : State} (hmark : s.refused = false) :
    (State.serve k s).refused = false ↔ NothingRefused k s := by
  induction k generalizing s with
  | zero => exact ⟨fun _ => ⟨s, run_zero s⟩, fun _ => hmark⟩
  | succ k ih =>
    rw [State.serve_succ]
    cases hstep : step s with
    | next t =>
      rw [State.afterStep_of_next hstep, nothingRefused_succ_of_next hstep]
      exact ih ((step_refused_eq hstep).trans hmark)
    | fault f => nomatch f
    | refused why =>
      have hset : (State.serve k s.refuse).refused = true := State.serve_refused k s.refuse_refused
      rw [State.afterStep_of_refused hstep]
      simp [hset, not_nothingRefused_succ_of_refused hstep k]

/-- Settles O39: the mark and the host's run, step by step. -/
theorem markTellsWhetherARunWasRefused : Obligations.MarkTellsWhetherARunWasRefused := fun _ _ hmark =>
  ⟨serve_refused_eq_false_iff hmark, run_eq_serve⟩

/-! ### Correct executors -/

/-- The number operand of a decoded instruction is the request's `num` field, and its `op` is one that uses the field. -/
theorem eq_num_of_takesNumber {r : Request} {i : Instr} {num : Nat} (h : decode r = .ok i) (hi : TakesNumber num i) :
    num = r.num.toNat ∧ r.hdr &&& 0x07 ∈ ([0x00, 0x01, 0x03] : List Byte) := by
  have hm := admissionMask_of_decode h
  rw [opMask_of_admissionMask hm]
  rcases hi with ⟨_, rfl⟩ | ⟨_, _, rfl⟩ | rfl
  · cases (decode_read hm).symm.trans h
    exact ⟨rfl, by simp [Laws.EncodedHeader.tableMatch]⟩
  · cases (decode_write hm).symm.trans h
    exact ⟨rfl, by simp [Laws.EncodedHeader.tableMatch]⟩
  · cases (decode_resetReg hm).symm.trans h
    exact ⟨rfl, by simp [Laws.EncodedHeader.tableMatch]⟩

/-- A correct request never ends with OutOfRange. -/
theorem noOutOfRange_of_correctInput {r : Request} {i : Instr} {s t : State} (hr : CorrectInput (.request r))
    (hi : decode r = .ok i) (h : exec i s = .next t) : NoOutOfRange t := by
  intro num hnum
  obtain ⟨habove, htakes, -⟩ := exec_eq_raise_of_outOfRange h hnum
  obtain ⟨rfl, hop⟩ := eq_num_of_takesNumber hi htakes
  obtain ⟨-, hrange⟩ := hr
  exact absurd (hrange hop) (Nat.not_le.mpr habove)

/-- Only correct inputs wait, and the latest response is no OutOfRange: the invariant of a correct executor's run. -/
def DrivenCorrectly (s : State) : Prop := (∀ input ∈ s.inputs, CorrectInput input) ∧ NoOutOfRange s

/-- A correctly driven block takes a step, and stays correctly driven. -/
theorem step_of_drivenCorrectly {s : State} (h : DrivenCorrectly s) : ∃ t, step s = .next t ∧ DrivenCorrectly t := by
  obtain ⟨hinputs, hresponse⟩ := h
  rcases step_cases s with ⟨_, hstep⟩ | ⟨rest, hin, hstep⟩ | ⟨r, rest, i, hin, hi, hstep⟩ | ⟨r, rest, why, hin, hwhy, _⟩
  · exact ⟨s, hstep, hinputs, hresponse⟩
  · rw [hin, List.forall_mem_cons] at hinputs
    obtain ⟨-, hrest⟩ := hinputs
    exact ⟨_, hstep, hrest, fun _ => nofun⟩
  · rw [hin, List.forall_mem_cons] at hinputs
    obtain ⟨hr, hrest⟩ := hinputs
    obtain ⟨t, ht, -⟩ := exec_cases i { s with inputs := rest }
    refine ⟨t, hstep.trans ht, ?_, noOutOfRange_of_correctInput hr hi ht⟩
    rwa [(exec_rest ht).1]
  · rw [hin, List.forall_mem_cons] at hinputs
    obtain ⟨⟨hadmitted, -⟩, -⟩ := hinputs
    exact absurd (exists_decode_error_iff.mp ⟨why, hwhy⟩) hadmitted

/-- A correctly driven run meets no refusal and stays correctly driven, by induction on its steps. -/
theorem serve_of_drivenCorrectly (k : Nat) {s : State} (h : DrivenCorrectly s) :
    NothingRefused k s ∧ DrivenCorrectly (State.serve k s) := by
  induction k generalizing s with
  | zero => exact ⟨⟨s, run_zero s⟩, h⟩
  | succ k ih =>
    obtain ⟨t, hstep, ht⟩ := step_of_drivenCorrectly h
    rw [nothingRefused_succ_of_next hstep, State.serve_succ, State.afterStep_of_next hstep]
    exact ih ht

/-- Settles O40: the invariant of a correct executor's run, after each number of steps. -/
theorem correctInputsRunSafely : Obligations.CorrectInputsRunSafely := by
  intro s k hinputs hresponse
  have hs : DrivenCorrectly s := ⟨hinputs, hresponse⟩
  obtain ⟨hrun, -⟩ := serve_of_drivenCorrectly k hs
  refine ⟨hrun, fun j _ => ?_⟩
  obtain ⟨-, -, hafter⟩ := serve_of_drivenCorrectly (j + 1) hs
  exact hafter

end Sys2Proof.Machine
end
